-- ==== Sys2Proof/Word.lean ====
section
/-! DEFINITION. The value types of the block's ports and registers: 8-bit bytes (R10, R18, R65), the
32-bit acceptance words (R33, R34), and the byte string a command line or an output item is (R18). -/

namespace Sys2Proof

/-- One byte of a host stream or of a frame payload: an 8-bit unsigned value (R18, R65). -/
abbrev Byte := BitVec 8

/-- A 32-bit unsigned word: the acceptance code and the acceptance mask (R33, R34). -/
abbrev Word := BitVec 32

/-- A byte string, in order. As a command line it excludes the terminator (R18, R80). -/
abbrev Line := List Byte

end Sys2Proof
end

