-- ==== Sys2Proof/Syntax.lean ====
section
/-! DEFINITION. The error kinds (R260), the Frame value (R20), the operand forms of the eight line
formats (R81), and `Instr`: one constructor for each row of spec/opcode_table.json, named by the
handler that rule R140 gives the row. -/

namespace Sys2Proof

/-- The six error kinds of R260. A kind is never sent on the wire: every kind is answered with the
same byte, and only the call trace names it. -/
inductive NackKind where
  /-- Code 1: a bad digit, a line shorter than its fixed part, or longer than a fixed format (R87). -/
  | malformedField
  /-- Code 2: a decoded value outside its bound (R89, R90). -/
  | outOfRange
  /-- Code 3: the data digits of `t`/`T` are not exactly twice the declared length (R87). -/
  | lengthMismatch
  /-- Code 4: a command issued in a phase where it is not legal, or an unknown command (R143, R147). -/
  | illegalState
  /-- Code 5: a controller call answered `fail` (R261). -/
  | controllerFailure
  /-- Code 6: the input line exceeded the cap (R122). -/
  | bufferOverflow
  deriving DecidableEq, Repr

/-- What a Frame carries. A remote frame's payload is not part of its value (R20, R36), so a remote
frame holds none, and equality of frames is equality of these terms. -/
inductive Payload where
  | data (bytes : List Byte)
  | remote
  deriving DecidableEq, Repr

/-- A CAN frame value (R20). `id` and `len` are numbers that the block compares with bounds, never
bits it masks; a frame the controller hands in may be out of bounds, which R247 answers with a fault. -/
structure Frame where
  /-- The identifier, an unsigned number. -/
  id : Nat
  /-- Extended frame (29-bit identifier). -/
  ext : Bool
  /-- The data length code. -/
  len : Nat
  /-- The payload bytes, present exactly when the frame is not remote. -/
  payload : Payload
  deriving DecidableEq, Repr

/-- `rtr` of R20: the frame is a remote frame. -/
def Frame.rtr (f : Frame) : Bool :=
  match f.payload with
  | .data _ => false
  | .remote => true

/-- The operands of one command line: the values its fields decode to, or the error kind that the
field checks of R263 (steps 2 to 5) report. Both forms are run: a handler checks the phase first,
and only then raises the kind of a bad line (R145). -/
inductive Operands (α : Type) where
  | good (v : α)
  | bad (kind : NackKind)
  deriving DecidableEq, Repr

/-- The fields of `STD_DATA` and `EXT_DATA` (R81): identifier, declared length, data bytes. -/
structure DataArgs where
  id : Nat
  len : Nat
  data : List Byte
  deriving DecidableEq, Repr

/-- The fields of `STD_RTR` and `EXT_RTR` (R81): identifier and declared length. -/
structure RemoteArgs where
  id : Nat
  len : Nat
  deriving DecidableEq, Repr

/-- The fields of `BTR` (R81, R216): the two raw timing bytes, `b0` first. -/
structure BtrArgs where
  b0 : Byte
  b1 : Byte
  deriving DecidableEq, Repr

/-- One command: the opcode (the constructor) and its operands. A line whose first byte is none of
the fourteen opcodes, and an empty line, is no instruction; R147 gives it a handler of its own. -/
inductive Instr where
  /-- `O` (R160), format `BARE`. -/
  | openChannel (a : Operands Unit)
  /-- `C` (R164), format `BARE`. -/
  | closeChannel (a : Operands Unit)
  /-- `t` (R180), format `STD_DATA`. -/
  | sendStd (a : Operands DataArgs)
  /-- `T` (R184), format `EXT_DATA`. -/
  | sendExt (a : Operands DataArgs)
  /-- `r` (R187), format `STD_RTR`. -/
  | remoteStd (a : Operands RemoteArgs)
  /-- `R` (R190), format `EXT_RTR`. -/
  | remoteExt (a : Operands RemoteArgs)
  /-- `Z` (R200), format `DIGIT`; the operand is `n = 1`. -/
  | timestamp (a : Operands Bool)
  /-- `M` (R204), format `WORD32`. -/
  | setCode (a : Operands Word)
  /-- `m` (R207), format `WORD32`. -/
  | setMask (a : Operands Word)
  /-- `s` (R216), format `BTR`. -/
  | customTiming (a : Operands BtrArgs)
  /-- `S` (R212), format `DIGIT`; the operand is the preset index 0 to 8. -/
  | preset (a : Operands (Fin 9))
  /-- `F` (R230), format `BARE`. -/
  | status (a : Operands Unit)
  /-- `V` (R232), format `BARE`. -/
  | version (a : Operands Unit)
  /-- `N` (R234), format `BARE`. -/
  | serial (a : Operands Unit)
  deriving DecidableEq, Repr

end Sys2Proof
end

