-- ==== Sys2Proof/Config.lean ====
section
/-! DEFINITION. The parameters of R7, the build policy of R12, the value types of the controller and
scheduler ports (R9, R13, R15, R218), and the free values: constants with no body, so that nothing can
prove what they are (R15, R16, R194, R218; log 2 to 8). -/

namespace Sys2Proof.Config

/-- `LINE_CAP`: a line holds at most `lineCap - 1` = 31 bytes before its terminator (R7). -/
@[simp] abbrev lineCap : Nat := 32
/-- `TERM`: the line terminator (CR), which is also the ACK byte (R7). -/
@[simp] abbrev term : Byte := 0x0D
/-- `NACK_BYTE` (BEL) (R7). -/
@[simp] abbrev nackByte : Byte := 0x07
/-- `MAX_LEN`: the largest data length (R7). -/
@[simp] abbrev maxLen : Nat := 8
/-- `STD_ID_MAX`: the largest standard identifier (R7). -/
@[simp] abbrev stdIdMax : Nat := 0x7FF
/-- `EXT_ID_MAX`: the largest extended identifier (R7). -/
@[simp] abbrev extIdMax : Nat := 0x1FFFFFFF
/-- `TX_TIMEOUT_MS`: the timeout passed to `transmit` (R7, R195). -/
@[simp] abbrev txTimeoutMs : Nat := 1000
/-- `TS_MODULUS`: the timestamp is the millisecond count modulo this value (R7, R242). -/
@[simp] abbrev tsModulus : Nat := 60000
/-- `IND_PULSE_MS`: the nominal length of the indicator pulse; no rule depends on it (R7, R17). -/
def indPulseMs : Nat := 100
/-- `STATUS_STR` = "F00" (R7, R230). -/
def statusStr : Line := [0x46, 0x30, 0x30]
/-- `VERSION_STR` = "V1234" (R7, R232). -/
def versionStr : Line := [0x56, 0x31, 0x32, 0x33, 0x34]
/-- `SERIAL_STR` = "N2208" (R7, R234). -/
def serialStr : Line := [0x4E, 0x32, 0x32, 0x30, 0x38]
/-- `PRESET_COUNT`: presets `S0` to `S8` (R7). -/
def presetCount : Nat := 9

/-- The bit rates of R214 that the source fixes, in bit/s. The others belong to the controller's
configuration; the block stores only the index, and no rule of the block reads a rate. -/
def presetRate : Fin 9 → Option Nat
  | 0 => some 10000
  | 6 => some 500000
  | 8 => some 1000000
  | _ => none

/-- A build of the block. `STRICT_ID` is a build-time policy (R12). -/
structure Build where
  strictId : Bool
  deriving DecidableEq, Repr

/-- The build this spec describes: `STRICT_ID = true` (R7, R12). -/
def block : Build := { strictId := true }

/-- What `install`, `start`, `stop`, `uninstall` and `transmit` answer (R13, R15). -/
inductive CtlResult where
  | ok
  | fail
  deriving DecidableEq, Repr, Inhabited

/-- What `receiveNonBlocking` answers (R13, R15). -/
inductive RxAnswer where
  | empty
  | frame (f : Frame)
  deriving DecidableEq, Repr, Inhabited

/-- The two steps of R9: `ConsumeByte(b)` and `Poll`. -/
inductive StepInput where
  | consumeByte (b : Byte)
  | poll
  deriving DecidableEq, Repr, Inhabited

/-- The tuple that `BTR_DECODE` answers: baud-rate prescaler, time segments 1 and 2, synchronisation
jump width, triple sampling (R218). -/
structure BtrTuple where
  brp : Nat
  tseg1 : Nat
  tseg2 : Nat
  sjw : Nat
  sam : Bool
  deriving DecidableEq, Repr, Inhabited

/-- FREE VALUE (R9, R307; log 2). The step the scheduler takes, once the agenda of State is used up. -/
opaque freeStep : Nat → StepInput

/-- FREE VALUE (R15; log 3). A controller result, once the scripted results are used up. -/
opaque freeResult : Nat → CtlResult

/-- FREE VALUE (R15; log 4). An answer of `receiveNonBlocking`, once the scripted ones are used up. It
may be any frame, an invalid one too (R247). -/
opaque freeInbound : Nat → RxAnswer

/-- FREE VALUE (R16, R242; log 5). A clock reading, once the scripted ones are used up. -/
opaque freeClock : Nat → Nat

/-- FREE VALUE (R194; log 7). The payload bytes handed over with a remote frame. -/
opaque remotePayload : Nat → List Byte

/-- FREE VALUE (R218; log 8). `BTR_DECODE`, a total function of the two raw bytes whose values the
source does not give. -/
opaque btrDecode : Byte → Byte → BtrTuple

end Sys2Proof.Config
end

