-- ==== Sys2Proof/WellFormed.lean ====
section
/-! DEFINITION. Which Frame values are valid (R36) and which instructions are well-formed: the operands
decoded (no error kind), and every value in its bound (R81, R89, R90). -/

namespace Sys2Proof

/-- The largest identifier of a frame kind: 0x7FF standard, 0x1FFFFFFF extended (R36, R89). -/
def idMax (ext : Bool) : Nat := if ext then Config.extIdMax else Config.stdIdMax

/-- A data frame's payload holds exactly `len` bytes (R36); a remote frame has none to check. -/
def Frame.payloadFits (f : Frame) : Bool :=
  match f.payload with
  | .data bytes => bytes.length == f.len
  | .remote => true

/-- R36: the identifier fits its kind, `len <= 8`, and a data frame's payload holds `len` bytes. -/
def Frame.valid (f : Frame) : Bool :=
  decide (f.id ≤ idMax f.ext) && decide (f.len ≤ Config.maxLen) && f.payloadFits

/-- The bounds of a data send's operands (R89, R90) and its exact data count (R87). -/
def DataArgs.inRange (ext : Bool) (a : DataArgs) : Bool :=
  decide (a.id ≤ idMax ext) && decide (a.len ≤ Config.maxLen) && a.data.length == a.len

/-- The bounds of a remote send's operands (R89, R90). -/
def RemoteArgs.inRange (ext : Bool) (a : RemoteArgs) : Bool :=
  decide (a.id ≤ idMax ext) && decide (a.len ≤ Config.maxLen)

/-- The operands decoded, and their value satisfies `p`. -/
def Operands.check {α : Type} (p : α → Bool) : Operands α → Bool
  | .good v => p v
  | .bad _ => false

/-- The well-formed commands of R81: those that are acted on rather than refused for their fields. -/
def Instr.wellFormed : Instr → Bool
  | .openChannel a => a.check fun _ => true
  | .closeChannel a => a.check fun _ => true
  | .sendStd a => a.check (DataArgs.inRange false)
  | .sendExt a => a.check (DataArgs.inRange true)
  | .remoteStd a => a.check (RemoteArgs.inRange false)
  | .remoteExt a => a.check (RemoteArgs.inRange true)
  | .timestamp a => a.check fun _ => true
  | .setCode a => a.check fun _ => true
  | .setMask a => a.check fun _ => true
  | .customTiming a => a.check fun _ => true
  | .preset a => a.check fun _ => true
  | .status a => a.check fun _ => true
  | .version a => a.check fun _ => true
  | .serial a => a.check fun _ => true

end Sys2Proof
end

