-- ==== Sys2Proof/Decode.lean ====
section
/-! DEFINITION. The command decoder, total on every line: it selects the constructor by the first byte
alone (R91) and checks and assembles the fields of the line's format (R81 to R90, R263 steps 2 to 5).
After it, the encoder of well-formed commands, written from the same format table (R81), and the
host's view of the opcode table's words. -/

namespace Sys2Proof

/-! ## Digits (R83 to R86) -/

/-- The value of a hex digit byte; either letter case, and no other byte (R83). -/
def hexDigit? (c : Byte) : Option Nat :=
  if 0x30 ≤ c.toNat ∧ c.toNat ≤ 0x39 then some (c.toNat - 0x30)
  else if 0x41 ≤ c.toNat ∧ c.toNat ≤ 0x46 then some (c.toNat - 0x41 + 10)
  else if 0x61 ≤ c.toNat ∧ c.toNat ≤ 0x66 then some (c.toNat - 0x61 + 10)
  else none

/-- The value of a decimal digit byte (R85). -/
def decDigit? (c : Byte) : Option Nat :=
  if 0x30 ≤ c.toNat ∧ c.toNat ≤ 0x39 then some (c.toNat - 0x30) else none

/-- `HexVal` continued from the value `acc` of the digits already read, most significant first. -/
def hexValFrom (acc : Nat) : Line → Option Nat
  | [] => some acc
  | c :: cs =>
    match hexDigit? c with
    | some d => hexValFrom (acc * 16 + d) cs
    | none => none

/-- `HexVal(s)`: the unsigned value of a hex digit string, defined only when every byte is a hex
digit (R60, R84). -/
def hexVal? (s : Line) : Option Nat := hexValFrom 0 s

/-- Consecutive two-digit groups, in frame order (R61). -/
def hexBytes? : Line → Option (List Byte)
  | [] => some []
  | [_] => none
  | a :: b :: rest =>
    match hexVal? [a, b], hexBytes? rest with
    | some v, some vs => some (BitVec.ofNat 8 v :: vs)
    | _, _ => none

/-- The upper-case hex digit of a value below 16 (R86). -/
def hexDigitByte (d : Nat) : Byte :=
  BitVec.ofNat 8 (if d < 10 then 0x30 + d else 0x41 + (d - 10))

/-- `Hex(v, n)`: `v` as exactly `n` upper-case hex digits, most significant first (R60, R86). -/
def hexText (v : Nat) : Nat → Line
  | 0 => []
  | n + 1 => hexText (v / 16) n ++ [hexDigitByte (v % 16)]

/-- The decimal digit byte of a value below 10 (R85). -/
def decDigitByte (d : Nat) : Byte := BitVec.ofNat 8 (0x30 + d)

/-- Bytes as two-digit groups, in frame order (R61). -/
def hexBytes (bytes : List Byte) : Line := bytes.flatMap fun b => hexText b.toNat 2

/-- The `n` bytes of a line from position `i` on: `line[i .. i+n-1]` of R18. -/
def field (line : Line) (i n : Nat) : Line := (line.drop i).take n

/-! ## Formats and opcodes (R81, R82) -/

/-- The eight formats of R81. -/
inductive Format where
  | bare
  | digit
  | word32
  | btr
  | stdData
  | extData
  | stdRtr
  | extRtr
  deriving DecidableEq, Repr

/-- The bytes of a format before any data digits: the exact length of a format without data (R81). -/
def Format.fixedPart : Format → Nat
  | .bare => 1
  | .digit => 2
  | .word32 => 9
  | .btr => 5
  | .stdData => 5
  | .extData => 10
  | .stdRtr => 5
  | .extRtr => 10

/-- The fourteen opcodes, under the names of their handlers (R140). -/
inductive Opcode where
  | openChannel
  | closeChannel
  | sendStd
  | sendExt
  | remoteStd
  | remoteExt
  | timestamp
  | setCode
  | setMask
  | customTiming
  | preset
  | status
  | version
  | serial
  deriving DecidableEq, Repr

/-- The opcode byte (R82). -/
def Opcode.byte : Opcode → Byte
  | .openChannel => 0x4F
  | .closeChannel => 0x43
  | .sendStd => 0x74
  | .sendExt => 0x54
  | .remoteStd => 0x72
  | .remoteExt => 0x52
  | .timestamp => 0x5A
  | .setCode => 0x4D
  | .setMask => 0x6D
  | .customTiming => 0x73
  | .preset => 0x53
  | .status => 0x46
  | .version => 0x56
  | .serial => 0x4E

/-- The format of an opcode (R81). -/
def Opcode.format : Opcode → Format
  | .openChannel => .bare
  | .closeChannel => .bare
  | .sendStd => .stdData
  | .sendExt => .extData
  | .remoteStd => .stdRtr
  | .remoteExt => .extRtr
  | .timestamp => .digit
  | .setCode => .word32
  | .setMask => .word32
  | .customTiming => .btr
  | .preset => .digit
  | .status => .bare
  | .version => .bare
  | .serial => .bare

/-- The opcodes, in the order of the table. -/
def opcodes : List Opcode :=
  [.openChannel, .closeChannel, .sendStd, .sendExt, .remoteStd, .remoteExt, .timestamp,
    .setCode, .setMask, .customTiming, .preset, .status, .version, .serial]

/-- The opcode of a byte, compared exactly; the other 242 byte values have none (R82, R91). -/
def opcodeOf? (b : Byte) : Option Opcode := opcodes.find? fun op => op.byte == b

/-! ## Field checks, in the order of R263 -/

/-- Goes on with decoded operands, and keeps the error kind of a bad line. -/
def Operands.bind {α β : Type} (a : Operands α) (k : α → Operands β) : Operands β :=
  match a with
  | .good v => k v
  | .bad e => .bad e

/-- A value that must be present: a digit field none of whose bytes is a bad digit. -/
def orMalformed {α : Type} (v : Option α) : Operands α :=
  match v with
  | some v => .good v
  | none => .bad .malformedField

/-- Refuses a line with the kind `e` when the check fails. -/
def require (ok : Bool) (e : NackKind) : Operands Unit := if ok then .good () else .bad e

/-- A format of one exact length, given by its fixed part: any other length is MalformedField (R87). -/
def exactLength (f : Format) (line : Line) : Operands Unit :=
  require (line.length == f.fixedPart) .malformedField

/-- The decimal digit at a position of the line (R85). -/
def digitAt (line : Line) (i : Nat) : Operands Nat := orMalformed ((line.drop i).head?.bind decDigit?)

/-- `BARE`: nothing follows the opcode. -/
def decodeBare (line : Line) : Operands Unit := exactLength .bare line

/-- `DIGIT`: one decimal digit (R200, R212). -/
def decodeDigit (line : Line) : Operands Nat :=
  (exactLength .digit line).bind fun _ => digitAt line 1

/-- The digit of `Z`: 0 or 1 (R90, R200). -/
def decodeTimestamp (line : Line) : Operands Bool :=
  (decodeDigit line).bind fun n =>
    (require (decide (n ≤ 1)) .outOfRange).bind fun _ => .good (n == 1)

/-- The digit of `S`: 0 to 8 (R90, R212). -/
def decodePreset (line : Line) : Operands (Fin 9) :=
  (decodeDigit line).bind fun k => if h : k < 9 then .good ⟨k, h⟩ else .bad .outOfRange

/-- `WORD32`: eight hex digits, any 32-bit value (R89, R204, R207). -/
def decodeWord32 (line : Line) : Operands Word :=
  (exactLength .word32 line).bind fun _ =>
    (orMalformed (hexVal? (field line 1 8))).bind fun w => .good (BitVec.ofNat 32 w)

/-- `BTR`: two bytes of two hex digits each, `b0` first (R89, R216). -/
def decodeBtr (line : Line) : Operands BtrArgs :=
  (exactLength .btr line).bind fun _ =>
    (orMalformed (hexVal? (field line 1 2))).bind fun b0 =>
      (orMalformed (hexVal? (field line 3 2))).bind fun b1 =>
        .good { b0 := BitVec.ofNat 8 b0, b1 := BitVec.ofNat 8 b1 }

/-- How many hex digits the identifier takes: 3 standard, 8 extended (R81). -/
def idDigits (ext : Bool) : Nat := if ext then 8 else 3

/-- The fixed part of the four send formats: minimum length, identifier digits, length digit, then the
bounds of the identifier and of the length (R263 steps 2 and 3). -/
def decodeHeader (ext : Bool) (line : Line) : Operands RemoteArgs :=
  (require (decide (idDigits ext + 2 ≤ line.length)) .malformedField).bind fun _ =>
    (orMalformed (hexVal? (field line 1 (idDigits ext)))).bind fun id =>
      (digitAt line (idDigits ext + 1)).bind fun len =>
        (require (decide (id ≤ idMax ext)) .outOfRange).bind fun _ =>
          (require (decide (len ≤ Config.maxLen)) .outOfRange).bind fun _ =>
            .good { id := id, len := len }

/-- `STD_DATA` and `EXT_DATA`: the header, the data count, then the data digits (R180, R184). -/
def decodeData (ext : Bool) (line : Line) : Operands DataArgs :=
  (decodeHeader ext line).bind fun h =>
    (require (line.length - (idDigits ext + 2) == 2 * h.len) .lengthMismatch).bind fun _ =>
      (orMalformed (hexBytes? (line.drop (idDigits ext + 2)))).bind fun data =>
        .good { id := h.id, len := h.len, data := data }

/-- `STD_RTR` and `EXT_RTR`: the header and no byte after it (R187, R190). -/
def decodeRemote (ext : Bool) (line : Line) : Operands RemoteArgs :=
  (decodeHeader ext line).bind fun h =>
    (require (line.length == idDigits ext + 2) .malformedField).bind fun _ => .good h

/-- The instruction of a line whose opcode is `op`. -/
def decodeAs (op : Opcode) (line : Line) : Instr :=
  match op with
  | .openChannel => .openChannel (decodeBare line)
  | .closeChannel => .closeChannel (decodeBare line)
  | .sendStd => .sendStd (decodeData false line)
  | .sendExt => .sendExt (decodeData true line)
  | .remoteStd => .remoteStd (decodeRemote false line)
  | .remoteExt => .remoteExt (decodeRemote true line)
  | .timestamp => .timestamp (decodeTimestamp line)
  | .setCode => .setCode (decodeWord32 line)
  | .setMask => .setMask (decodeWord32 line)
  | .customTiming => .customTiming (decodeBtr line)
  | .preset => .preset (decodePreset line)
  | .status => .status (decodeBare line)
  | .version => .version (decodeBare line)
  | .serial => .serial (decodeBare line)

/-- Decodes one command line by its first byte (R91, R140). `none` is the unknown command: the empty
line, or a first byte that is no opcode (R147). -/
def decode (line : Line) : Option Instr :=
  match line with
  | [] => none
  | b :: _ => (opcodeOf? b).map fun op => decodeAs op line

/-! ## Frames of the send commands (R196) -/

/-- The data frame of a data send: `ext` comes from the opcode (R185). -/
def DataArgs.toFrame (ext : Bool) (a : DataArgs) : Frame :=
  { id := a.id, ext := ext, len := a.len, payload := .data a.data }

/-- The remote frame of a remote send; its declared length is the frame's length (R187, R188). -/
def RemoteArgs.toFrame (ext : Bool) (a : RemoteArgs) : Frame :=
  { id := a.id, ext := ext, len := a.len, payload := .remote }

/-- The value of decoded operands, mapped. -/
def Operands.map {α β : Type} (f : α → β) (a : Operands α) : Operands β := a.bind fun v => .good (f v)

/-- `Decode(line)` of R196: the Frame of a send line, or its error kind; `none` on a line that is no
send command. -/
def decodeFrame (line : Line) : Option (Operands Frame) :=
  match decode line with
  | some (.sendStd a) => some (a.map (DataArgs.toFrame false))
  | some (.sendExt a) => some (a.map (DataArgs.toFrame true))
  | some (.remoteStd a) => some (a.map (RemoteArgs.toFrame false))
  | some (.remoteExt a) => some (a.map (RemoteArgs.toFrame true))
  | _ => none

/-! ## The encoder of well-formed commands (R81, R94) -/

/-- The opcode of an instruction. -/
def Instr.opcode : Instr → Opcode
  | .openChannel _ => .openChannel
  | .closeChannel _ => .closeChannel
  | .sendStd _ => .sendStd
  | .sendExt _ => .sendExt
  | .remoteStd _ => .remoteStd
  | .remoteExt _ => .remoteExt
  | .timestamp _ => .timestamp
  | .setCode _ => .setCode
  | .setMask _ => .setMask
  | .customTiming _ => .customTiming
  | .preset _ => .preset
  | .status _ => .status
  | .version _ => .version
  | .serial _ => .serial

/-- The text of decoded operands. A bad line has no canonical text: nothing follows its opcode. -/
def Operands.text {α : Type} (f : α → Line) : Operands α → Line
  | .good v => f v
  | .bad _ => []

/-- The identifier and length digits of a send command (R81). -/
def headerText (ext : Bool) (id len : Nat) : Line := hexText id (idDigits ext) ++ [decDigitByte len]

/-- The operand bytes of an instruction, after the opcode (R81). -/
def Instr.operandText : Instr → Line
  | .openChannel a => a.text fun _ => []
  | .closeChannel a => a.text fun _ => []
  | .sendStd a => a.text fun v => headerText false v.id v.len ++ hexBytes v.data
  | .sendExt a => a.text fun v => headerText true v.id v.len ++ hexBytes v.data
  | .remoteStd a => a.text fun v => headerText false v.id v.len
  | .remoteExt a => a.text fun v => headerText true v.id v.len
  | .timestamp a => a.text fun n => [decDigitByte n.toNat]
  | .setCode a => a.text fun w => hexText w.toNat 8
  | .setMask a => a.text fun w => hexText w.toNat 8
  | .customTiming a => a.text fun v => hexText v.b0.toNat 2 ++ hexText v.b1.toNat 2
  | .preset a => a.text fun k => [decDigitByte k.val]
  | .status a => a.text fun _ => []
  | .version a => a.text fun _ => []
  | .serial a => a.text fun _ => []

/-- The line of a well-formed instruction, its terminator not included (R81, R94). -/
def encode (i : Instr) : Line := i.opcode.byte :: i.operandText

/-! ## The opcode table's words -/

/-- The low bytes of a number, least significant first: the bytes of a table word in line order. -/
def lowBytes : Nat → Nat → Line
  | 0, _ => []
  | n + 1, w => BitVec.ofNat 8 w :: lowBytes n (w / 256)

/-- The line of a table word: its bytes, then 0x00 bytes up to the fixed part of its opcode's format,
since the table gives the operands no bits (log 31). -/
def tableLine (nbits w : Nat) : Line :=
  let bytes := lowBytes (nbits / 8) w
  let want := ((bytes.head?.bind opcodeOf?).map fun op => op.format.fixedPart).getD 0
  bytes ++ List.replicate (want - bytes.length) 0

/-- The instruction the decoder reads from a word of spec/opcode_table.json. -/
def decodeTableWord (nbits w : Nat) : Option Instr := decode (tableLine nbits w)

end Sys2Proof
end

