-- ==== Sys2Proof/Machine/State.lean ====
section
/-! DEFINITION. The state of the machine: the block's own record `st` with its seven fields (R30), and
around it the four ports as plain data: what the environment has ready (host bytes and schedule,
controller answers, clock readings) and what the block has put out (host output, call trace, values
handed to the controller). The reset state (R45, R290). Why a step can stop (R269). -/

namespace Sys2Proof.Machine

open Sys2Proof.Config (StepInput CtlResult RxAnswer BtrTuple)

/-- The mode of the Serial Frame Reader (R38). -/
inductive ReaderMode where
  | accumulate
  /-- The rest of an overflowed line is being thrown away (R123). -/
  | discard
  deriving DecidableEq, Repr

/-- The lifecycle phase (R31). `opened` is the spec's `Open`. -/
inductive Phase where
  | closed
  | configured
  | opened
  deriving DecidableEq, Repr

/-- The bit-timing configuration (R32). -/
inductive Timing where
  /-- No configuration has been applied. -/
  | none
  /-- The preset that `Sk` selected; the block stores the index only (R214). -/
  | preset (k : Fin 9)
  /-- The two raw bytes of `s` (R216). -/
  | custom (b0 b1 : Byte)
  deriving DecidableEq, Repr

/-- The block's entire state: the record `st` of R30. -/
structure Block where
  /-- `rd_buf`: the bytes of the current line, terminator not included (R37). -/
  rdBuf : Line
  /-- `rd_mode` (R38). -/
  rdMode : ReaderMode
  /-- `phase` (R31). -/
  phase : Phase
  /-- `timing` (R32). -/
  timing : Timing
  /-- `filt_code`: the acceptance code (R33). -/
  filtCode : Word
  /-- `filt_mask`: the acceptance mask (R34). -/
  filtMask : Word
  /-- `ts_en`: the timestamp flag (R35). -/
  tsEn : Bool
  deriving DecidableEq, Repr

/-- What the environment gives the block, as scripts that the steps read from the front. A script that
is used up goes on with free values of Config, applied to `draws` (log 2 to 5). -/
structure Env where
  /-- The steps the scheduler takes, each `ConsumeByte` with its byte of the host stream (R9, R10, R62). -/
  agenda : List StepInput
  /-- The answers of `install`, `start`, `stop`, `uninstall` and `transmit`, in call order (R15). -/
  results : List CtlResult
  /-- The answers of `receiveNonBlocking`, in call order (R15). -/
  inbound : List RxAnswer
  /-- The readings of the millisecond clock, in order (R16). -/
  clock : List Nat
  /-- How many free values have been drawn. The model's own counter. -/
  draws : Nat
  deriving DecidableEq, Repr

/-- The controller calls that answer `ok` or `fail`, with their arguments (R13, R272). -/
inductive Call where
  | install (timing : Timing) (code mask : Word)
  | start
  | stop
  | uninstall
  | transmit (frame : Frame) (timeoutMs : Nat)
  deriving DecidableEq, Repr

/-- One event of the call trace (R14, R17, R260, R307). -/
inductive Event where
  /-- A controller call, with the result the controller returned. -/
  | call (op : Call) (result : CtlResult)
  /-- `receiveNonBlocking()`, with its answer. -/
  | receive (answer : RxAnswer)
  /-- `Nack(kind)`. -/
  | nack (kind : NackKind)
  /-- `IndPulse`. -/
  | indPulse
  deriving DecidableEq, Repr

/-- The timing value that `install` receives: `BTR_DECODE(b0, b1)` in place of `Custom(b0, b1)` (R218). -/
inductive PortTiming where
  | none
  | preset (k : Fin 9)
  | tuple (t : BtrTuple)
  deriving DecidableEq, Repr

/-- The values handed over the controller port by the two calls whose arguments the call trace does not
hold as handed: the decoded timing (R218) and a remote frame's unspecified payload (R194). -/
inductive Handed where
  | install (timing : PortTiming) (code mask : Word)
  | transmit (frame : Frame) (payload : List Byte) (timeoutMs : Nat)
  deriving DecidableEq, Repr

/-- The whole machine. -/
structure State where
  /-- The block's own state (R30). Nothing else of the block persists between steps. -/
  st : Block
  /-- What the environment has ready. -/
  env : Env
  /-- The host output port: every byte emitted, in order (R11, R69). -/
  output : Line
  /-- The call trace, in order (R14, R71). -/
  trace : List Event
  /-- The values handed over the controller port, in order (R194, R218). The model's own record. -/
  handed : List Handed
  deriving DecidableEq, Repr

/-- Why the machine stops. -/
inductive Fault where
  /-- Raised by `Poll` when `receiveNonBlocking` returned a frame that is not valid (R247). It holds the
  machine as the run ends: the pull is made, and its event stands last in the trace (R14, R245). SAFE: the
  source gives no behaviour for such a frame, and the fault ends the run. -/
  | invalidInboundFrame (final : State)
  deriving DecidableEq, Repr

/-- Why an instruction has no meaning here. -/
inductive Refusal where
  /-- An instruction whose arm has no meaning yet. No arm is in that case. SAFE. -/
  | notModelled (mnemonic : String)
  /-- Raised by every step of a build with `STRICT_ID = false` (R12, R269). SAFE: the source gives that
  build no behaviour. The build of this spec is strict, so its step never raises it. -/
  | nonStrictBuild
  deriving DecidableEq, Repr

/-- `st` right after reset (R45). -/
def Block.reset : Block where
  rdBuf := []
  rdMode := .accumulate
  phase := .closed
  timing := .none
  filtCode := 0x00000000
  filtMask := 0xFFFFFFFF
  tsEn := false

/-- The machine right after reset: `st` as R45 gives it, nothing emitted, nothing called (R290), and no
environment script (log 6, log 30). -/
def State.reset : State where
  st := Block.reset
  env := { agenda := [], results := [], inbound := [], clock := [], draws := 0 }
  output := []
  trace := []
  handed := []

end Sys2Proof.Machine
end

