-- ==== Sys2Proof/Machine/Ops.lean ====
section
/-! DEFINITION. The named operations over the ports (R11, R13 to R17, R19): reading the environment,
emitting bytes, recording events, calling the controller; and raising a NACK, the one exception entry
(R19, R265). There is no return from it: after a NACK the block is ready for the next line (R266). -/

namespace Sys2Proof.Machine

open Sys2Proof.Config (StepInput CtlResult RxAnswer)

/-! ## Reading the environment: the next value, and the environment after it is read -/

/-- The next step the scheduler takes (R9; log 2). -/
def Env.nextStep (e : Env) : StepInput :=
  match e.agenda with
  | i :: _ => i
  | [] => Config.freeStep e.draws

def Env.afterStep (e : Env) : Env :=
  match e.agenda with
  | _ :: rest => { e with agenda := rest }
  | [] => { e with draws := e.draws + 1 }

/-- The controller's answer to the next call that answers `ok` or `fail` (R15; log 3). -/
def Env.nextResult (e : Env) : CtlResult :=
  match e.results with
  | r :: _ => r
  | [] => Config.freeResult e.draws

def Env.afterResult (e : Env) : Env :=
  match e.results with
  | _ :: rest => { e with results := rest }
  | [] => { e with draws := e.draws + 1 }

/-- The controller's answer to the next `receiveNonBlocking` (R15, R210; log 4). -/
def Env.nextInbound (e : Env) : RxAnswer :=
  match e.inbound with
  | a :: _ => a
  | [] => Config.freeInbound e.draws

def Env.afterInbound (e : Env) : Env :=
  match e.inbound with
  | _ :: rest => { e with inbound := rest }
  | [] => { e with draws := e.draws + 1 }

/-- The next reading of the millisecond clock (R16; log 5). -/
def Env.nextClock (e : Env) : Nat :=
  match e.clock with
  | ms :: _ => ms
  | [] => Config.freeClock e.draws

def Env.afterClock (e : Env) : Env :=
  match e.clock with
  | _ :: rest => { e with clock := rest }
  | [] => { e with draws := e.draws + 1 }

/-! ## Output and trace -/

/-- `Emit(s)`: appends to the host output port (R11, R19). -/
def State.emit (s : State) (bytes : Line) : State := { s with output := s.output ++ bytes }

/-- Appends one event to the call trace (R14). -/
def State.record (s : State) (e : Event) : State := { s with trace := s.trace ++ [e] }

/-- `Pulse()`: records one `IndPulse` event (R17, R19). -/
def State.pulse (s : State) : State := s.record .indPulse

/-- `ACK()` (R19). -/
def State.ack (s : State) : State := s.emit [Config.term]

/-- `raise NACK(kind)`, the entry of every error: emits the NACK byte and records the kind. It saves
nothing, writes no field of `st`, and the handler ends with it (R19, R265). -/
def State.raiseNack (s : State) (kind : NackKind) : State :=
  (s.emit [Config.nackByte]).record (.nack kind)

/-! ## Controller calls -/

/-- The timing as `install` receives it (R214, R218). -/
def portTiming : Timing → PortTiming
  | .none => .none
  | .preset k => .preset k
  | .custom b0 b1 => .tuple (Config.btrDecode b0 b1)

/-- The payload handed over with a frame: its own bytes, or for a remote frame bytes under no law, a
free value of its own for each hand-over (R194). -/
def portPayload (f : Frame) (handOvers : Nat) : List Byte :=
  match f.payload with
  | .data bytes => bytes
  | .remote => Config.remotePayload handOvers

/-- What a call hands over the controller port, where the call trace does not hold it as handed. -/
def handOver (op : Call) (handOvers : Nat) : List Handed :=
  match op with
  | .install timing code mask => [.install (portTiming timing) code mask]
  | .transmit f ms => [.transmit f (portPayload f handOvers) ms]
  | .start => []
  | .stop => []
  | .uninstall => []

/-- `Call(op, args)`: one controller call, recorded with the answer the controller chose (R13, R14,
R19). It is made once and never retried (R67). -/
def State.callController (s : State) (op : Call) : CtlResult × State :=
  let r := s.env.nextResult
  (r, { s with
    env := s.env.afterResult
    trace := s.trace ++ [.call op r]
    handed := s.handed ++ handOver op s.handed.length })

/-- `Call(receiveNonBlocking, ())`, recorded with its answer (R13, R14, R245). -/
def State.callReceive (s : State) : RxAnswer × State :=
  let a := s.env.nextInbound
  (a, { s with env := s.env.afterInbound, trace := s.trace ++ [.receive a] })

end Sys2Proof.Machine
end

