-- ==== Sys2Proof/Machine/Operands.lean ====
section
/-! DEFINITION. How a handler takes its operands: the phase check first, then the outcome of the field
checks, then the handler's own effect (R143, R145, R263). The fields themselves are decoded in
Sys2Proof/Decode.lean. -/

namespace Sys2Proof.Machine

/-- The three outcomes of a handler or step of this machine. -/
abbrev Result := Host.Outcome State Fault Refusal

/-- A refusal of the line: the NACK ends the handler (R19, R144). -/
def refuseLine (s : State) (kind : NackKind) : Result := .next (s.raiseNack kind)

/-- A refusal of the line with an indicator pulse before the NACK (R146, R265). -/
def refuseWithPulse (s : State) (kind : NackKind) : Result := refuseLine s.pulse kind

/-- Goes on with decoded operands; a line whose field checks failed is refused with their kind, and
nothing else happens (R88, R144). -/
def withOperands {α : Type} (a : Operands α) (s : State) (k : α → Result) : Result :=
  match a with
  | .good v => k v
  | .bad kind => refuseLine s kind

end Sys2Proof.Machine
end

