-- ==== Sys2Proof/Machine/Poller.lean ====
section
/-! DEFINITION. The binary-to-ASCII frame encoder (R240 to R244) and the Receive Poller's step `Poll`
(R245 to R248). Neither writes `st`. -/

namespace Sys2Proof.Machine

/-- The type tag of a report, by both flags (R240, R241). -/
def reportTag (f : Frame) : Byte :=
  match f.ext, f.rtr with
  | false, false => 0x74
  | true, false => 0x54
  | false, true => 0x72
  | true, true => 0x52

/-- The data digits of a report; a remote frame has none (R240, R241). -/
def reportData (f : Frame) : Line :=
  match f.payload with
  | .data bytes => bytes.flatMap fun b => hexText b.toNat 2
  | .remote => []

/-- `Encode0(f)`: the report without timestamp and terminator (R240, R249). -/
def encodeFrame (f : Frame) : Line :=
  reportTag f :: (hexText f.id (if f.ext then 8 else 3) ++ hexText f.len 1 ++ reportData f)

/-- The timestamp digits of a clock reading (R240, R242). -/
def stampText (ms : Nat) : Line := hexText (ms % Config.tsModulus) 4

/-- `Encode(f)`, and the state after it: the clock is read only when `ts_en` is set (R240, R242). -/
def encodeReport (f : Frame) (s : State) : Line × State :=
  if s.st.tsEn then
    (encodeFrame f ++ stampText s.env.nextClock ++ [Config.term],
      { s with env := s.env.afterClock })
  else (encodeFrame f ++ [Config.term], s)

/-- Writes the report of a frame to the host (R245). -/
def reportFrame (f : Frame) (s : State) : State :=
  let r := encodeReport f s
  r.2.emit r.1

/-- `Poll`: one pull, in every phase, recorded whatever its answer (R14). An invalid frame is a fault,
checked before the phase, and it holds the machine after the pull; a frame polled while the channel is not
open is dropped (R245, R246, R247). -/
def poll (s : State) : Result :=
  match s.callReceive with
  | (.empty, s1) => .next s1
  | (.frame f, s1) =>
    if f.valid = false then .fault (.invalidInboundFrame s1)
    else if s1.st.phase = .opened then .next (reportFrame f s1)
    else .next s1

end Sys2Proof.Machine
end

