-- ==== Sys2Proof/Machine/Flags.lean ====
section
/-! DEFINITION. The block has no condition codes (R41): its one flag is `ts_en` and its one mode is the
phase, each written only by the handlers that name it. Here stand those writes, the phase guards of
R143, and the spec's numeric codes for phases and error kinds (R31, R260). -/

namespace Sys2Proof.Machine

/-- The numeric encoding of the phase; the value 3 is unreachable (R31). -/
def Phase.code : Phase → BitVec 2
  | .closed => 0
  | .configured => 1
  | .opened => 2

/-- The numeric code of an error kind, used in the trace only (R260). -/
def nackCode : NackKind → Nat
  | .malformedField => 1
  | .outOfRange => 2
  | .lengthMismatch => 3
  | .illegalState => 4
  | .controllerFailure => 5
  | .bufferOverflow => 6

/-- Goes on in a legal phase; in another the line is refused with IllegalState (R143). -/
def whenPhase (legal : Bool) (s : State) (k : Result) : Result :=
  if legal then k else refuseLine s .illegalState

/-- The same for `O` and `C`, whose IllegalState refusal raises a pulse (R146 c). -/
def whenPhaseOrPulse (legal : Bool) (s : State) (k : Result) : Result :=
  if legal then k else refuseWithPulse s .illegalState

/-- `S` and `s`: the new timing and the phase `Configured`, one update of the channel state (R212, R216). -/
def State.configure (s : State) (t : Timing) : State :=
  { s with st := { s.st with timing := t, phase := .configured } }

/-- `O`: the phase `Open` (R160). -/
def State.enterOpen (s : State) : State := { s with st := { s.st with phase := .opened } }

/-- `C`: the phase `Closed` and no timing (R164). -/
def State.enterClosed (s : State) : State :=
  { s with st := { s.st with phase := .closed, timing := .none } }

/-- `M`: the acceptance code (R204). -/
def State.setFiltCode (s : State) (w : Word) : State := { s with st := { s.st with filtCode := w } }

/-- `m`: the acceptance mask (R207). -/
def State.setFiltMask (s : State) (w : Word) : State := { s with st := { s.st with filtMask := w } }

/-- `Z`: the timestamp flag (R200). -/
def State.setTsEn (s : State) (on : Bool) : State := { s with st := { s.st with tsEn := on } }

end Sys2Proof.Machine
end

