-- ==== Sys2Proof/Machine/Configure.lean ====
section
/-! DEFINITION. The configuration commands `Z`, `M`, `m`, `S`, `s` (R200 to R219). None of them calls the
controller or raises a pulse. -/

namespace Sys2Proof.Machine

/-- `Z`: legal in every phase (R200). -/
def execTimestamp (a : Operands Bool) (s : State) : Result :=
  withOperands a s fun on => .next (s.setTsEn on).ack

/-- `M`: only while `Configured` (R204). -/
def execSetCode (a : Operands Word) (s : State) : Result :=
  whenPhase (decide (s.st.phase = .configured)) s <|
    withOperands a s fun w => .next (s.setFiltCode w).ack

/-- `m`: only while `Configured` (R207). -/
def execSetMask (a : Operands Word) (s : State) : Result :=
  whenPhase (decide (s.st.phase = .configured)) s <|
    withOperands a s fun w => .next (s.setFiltMask w).ack

/-- `s`: refused while `Open`; no check of the timing is made (R216, R217). -/
def execCustomTiming (a : Operands BtrArgs) (s : State) : Result :=
  whenPhase (decide (s.st.phase ≠ .opened)) s <|
    withOperands a s fun v => .next (s.configure (.custom v.b0 v.b1)).ack

/-- `S`: refused while `Open` (R212, R213). -/
def execPreset (a : Operands (Fin 9)) (s : State) : Result :=
  whenPhase (decide (s.st.phase ≠ .opened)) s <|
    withOperands a s fun k => .next (s.configure (.preset k)).ack

end Sys2Proof.Machine
end

