-- ==== Sys2Proof/Machine/Lifecycle.lean ====
section
/-! DEFINITION. The channel lifecycle commands `O` and `C` (R160 to R167). -/

namespace Sys2Proof.Machine

/-- `O`: `install` with the timing and the filter, then `start`; the channel is open only if both
answer ok. A failed call is refused with a pulse, and no later call is made (R160, R161). -/
def execOpenChannel (a : Operands Unit) (s : State) : Result :=
  whenPhaseOrPulse (decide (s.st.phase = .configured)) s <|
    withOperands a s fun _ =>
      match s.callController (.install s.st.timing s.st.filtCode s.st.filtMask) with
      | (.fail, s1) => refuseWithPulse s1 .controllerFailure
      | (.ok, s1) =>
        match s1.callController .start with
        | (.fail, s2) => refuseWithPulse s2 .controllerFailure
        | (.ok, s2) => .next s2.enterOpen.pulse.ack

/-- `C`: `stop`, then `uninstall`; the channel is closed and its timing cleared only if both answer
ok. The filter and the timestamp flag are kept (R164, R165). -/
def execCloseChannel (a : Operands Unit) (s : State) : Result :=
  whenPhaseOrPulse (decide (s.st.phase = .opened)) s <|
    withOperands a s fun _ =>
      match s.callController .stop with
      | (.fail, s1) => refuseWithPulse s1 .controllerFailure
      | (.ok, s1) =>
        match s1.callController .uninstall with
        | (.fail, s2) => refuseWithPulse s2 .controllerFailure
        | (.ok, s2) => .next s2.enterClosed.pulse.ack

end Sys2Proof.Machine
end

