-- ==== Sys2Proof/Machine/Query.lean ====
section
/-! DEFINITION. The queries `F`, `V`, `N` (R230 to R235): legal in every phase, no state written, no
controller call, no pulse. -/

namespace Sys2Proof.Machine

/-- `F`: the constant status reply (R42, R230). -/
def execStatus (a : Operands Unit) (s : State) : Result :=
  withOperands a s fun _ => .next (s.emit (Config.statusStr ++ [Config.term]))

/-- `V`: the constant version reply (R232). -/
def execVersion (a : Operands Unit) (s : State) : Result :=
  withOperands a s fun _ => .next (s.emit (Config.versionStr ++ [Config.term]))

/-- `N`: the constant serial number reply (R234). -/
def execSerial (a : Operands Unit) (s : State) : Result :=
  withOperands a s fun _ => .next (s.emit (Config.serialStr ++ [Config.term]))

end Sys2Proof.Machine
end

