-- ==== Sys2Proof/Machine/Send.lean ====
section
/-! DEFINITION. The send commands `t`, `T`, `r`, `R` (R180 to R195). None of them writes `st`. -/

namespace Sys2Proof.Machine

/-- The one `transmit` call of a send, with the fixed timeout, and its reply: the letter and ACK on ok,
a ControllerFailure NACK without a pulse on fail (R180, R193, R195). -/
def transmitFrame (f : Frame) (reply : Line) (s : State) : Result :=
  match s.callController (.transmit f Config.txTimeoutMs) with
  | (.fail, s1) => refuseLine s1 .controllerFailure
  | (.ok, s1) => .next (s1.emit reply)

/-- A standard send answers `z` and ACK (R95). -/
def stdReply : Line := [0x7A, Config.term]

/-- An extended send answers `Z` and ACK (R95). -/
def extReply : Line := [0x5A, Config.term]

/-- `t` (R180). -/
def execSendStd (a : Operands DataArgs) (s : State) : Result :=
  whenPhase (decide (s.st.phase = .opened)) s <|
    withOperands a s fun v => transmitFrame (v.toFrame false) stdReply s

/-- `T` (R184). -/
def execSendExt (a : Operands DataArgs) (s : State) : Result :=
  whenPhase (decide (s.st.phase = .opened)) s <|
    withOperands a s fun v => transmitFrame (v.toFrame true) extReply s

/-- `r` (R187). -/
def execRemoteStd (a : Operands RemoteArgs) (s : State) : Result :=
  whenPhase (decide (s.st.phase = .opened)) s <|
    withOperands a s fun v => transmitFrame (v.toFrame false) stdReply s

/-- `R` (R190). -/
def execRemoteExt (a : Operands RemoteArgs) (s : State) : Result :=
  whenPhase (decide (s.st.phase = .opened)) s <|
    withOperands a s fun v => transmitFrame (v.toFrame true) extReply s

end Sys2Proof.Machine
end

