-- ==== Sys2Proof/Machine/Dispatch.lean ====
section
/-! DEFINITION. The dispatch of an instruction to its meaning, one arm per constructor (R140). -/

namespace Sys2Proof.Machine

def exec (i : Instr) (s : State) : Host.Outcome State Fault Refusal :=
  match i with
  | .openChannel a => Sys2Proof.Machine.execOpenChannel a s
  | .closeChannel a => Sys2Proof.Machine.execCloseChannel a s
  | .sendStd a => Sys2Proof.Machine.execSendStd a s
  | .sendExt a => Sys2Proof.Machine.execSendExt a s
  | .remoteStd a => Sys2Proof.Machine.execRemoteStd a s
  | .remoteExt a => Sys2Proof.Machine.execRemoteExt a s
  | .timestamp a => Sys2Proof.Machine.execTimestamp a s
  | .setCode a => Sys2Proof.Machine.execSetCode a s
  | .setMask a => Sys2Proof.Machine.execSetMask a s
  | .customTiming a => Sys2Proof.Machine.execCustomTiming a s
  | .preset a => Sys2Proof.Machine.execPreset a s
  | .status a => Sys2Proof.Machine.execStatus a s
  | .version a => Sys2Proof.Machine.execVersion a s
  | .serial a => Sys2Proof.Machine.execSerial a s

end Sys2Proof.Machine
end

