-- ==== Sys2Proof/Machine/Reader.lean ====
section
/-! DEFINITION. The Serial Frame Reader's step `ConsumeByte` (R120 to R127), the dispatch of a completed
line, and the unknown-command handler (R140, R147). -/

namespace Sys2Proof.Machine

/-- The unknown-command handler: a pulse and an IllegalState NACK, in every phase (R147). -/
def unknownCommand (s : State) : Result := refuseWithPulse s .illegalState

/-- `Dispatch(line)`: runs the instruction of the line, or the unknown-command handler (R140). -/
def dispatch (line : Line) (s : State) : Result :=
  match decode line with
  | some i => exec i s
  | none => unknownCommand s

def State.setRdBuf (s : State) (line : Line) : State := { s with st := { s.st with rdBuf := line } }

def State.setRdMode (s : State) (m : ReaderMode) : State := { s with st := { s.st with rdMode := m } }

/-- The line in the buffer ends: the buffer is emptied and the line dispatched in the same step (R121). -/
def endLine (s : State) : Result := dispatch s.st.rdBuf (s.setRdBuf [])

/-- The line reached the cap: one NACK, an empty buffer, and the rest of the line discarded (R122). -/
def overflow (s : State) : Result :=
  .next (((s.raiseNack .bufferOverflow).setRdBuf []).setRdMode .discard)

/-- `ConsumeByte(b)` (R120). -/
def consumeByte (b : Byte) (s : State) : Result :=
  match s.st.rdMode with
  | .discard => .next (if b = Config.term then s.setRdMode .accumulate else s)
  | .accumulate =>
    if b = Config.term then endLine s
    else if s.st.rdBuf.length = Config.lineCap - 1 then overflow s
    else .next (s.setRdBuf (s.st.rdBuf ++ [b]))

end Sys2Proof.Machine
end

