-- ==== Sys2Proof/Machine/Scheduler.lean ====
section
/-! DEFINITION. One step of the block (R9): the scheduler's choice between `ConsumeByte` and `Poll`, and
the build policy that every step stands under (R12). -/

namespace Sys2Proof.Machine

/-- Takes the next step of the schedule. -/
def runStep (s : State) : Result :=
  let s1 : State := { s with env := s.env.afterStep }
  match s.env.nextStep with
  | .consumeByte b => consumeByte b s1
  | .poll => poll s1

/-- One step of a build: a build with `STRICT_ID = false` is refused (R12, R269). -/
def stepOf (build : Config.Build) (s : State) : Result :=
  if build.strictId then runStep s else .refused .nonStrictBuild

/-- Places a line where the next step takes its command: in the line buffer of an accumulating reader,
with its terminator as the next byte the scheduler gives (R121; log 30). -/
def placeLine (s : State) (line : Line) : State :=
  { s with
    st := { s.st with rdBuf := line, rdMode := .accumulate }
    env := { s.env with agenda := .consumeByte Config.term :: s.env.agenda } }

end Sys2Proof.Machine
end

