-- ==== Sys2Proof/Machine/Step.lean ====
section
/-! DEFINITION. The machine's step, and the host's view of a table word placed where the step takes its
next command. -/

namespace Sys2Proof.Machine

/-- One step of the block: `ConsumeByte` or `Poll`, as the schedule says (R9). -/
def step (s : State) : Host.Outcome State Fault Refusal := stepOf Config.block s

/-- The state whose next step runs the line of a table word (log 30, log 31). -/
def State.withFetchWord (s : State) (nbits w : Nat) : State := placeLine s (tableLine nbits w)

end Sys2Proof.Machine
end

