-- ==== Sys2Proof/Safety.lean ====
section
/-! DEFINITION. The terms claims are stated in: the phases a command is legal in (R143), the invariant of
the block's state (R37, R38, R47), the error kind of a bad line, the reply of a command (R95, R141), the
forms of an output item (R95, R96), and when a step is safe (R247). Nothing of the machine reads them. -/

namespace Sys2Proof.Machine

/-- The table of R143: the phases in which a command is legal. -/
def legalPhase : Opcode → Phase → Bool
  | .openChannel, p => decide (p = .configured)
  | .closeChannel, p => decide (p = .opened)
  | .sendStd, p => decide (p = .opened)
  | .sendExt, p => decide (p = .opened)
  | .remoteStd, p => decide (p = .opened)
  | .remoteExt, p => decide (p = .opened)
  | .timestamp, _ => true
  | .setCode, p => decide (p = .configured)
  | .setMask, p => decide (p = .configured)
  | .customTiming, p => decide (p = .closed ∨ p = .configured)
  | .preset, p => decide (p = .closed ∨ p = .configured)
  | .status, _ => true
  | .version, _ => true
  | .serial, _ => true

/-- The commands whose phase refusal pulses the indicator (R146 c). -/
def isLifecycle : Opcode → Bool
  | .openChannel => true
  | .closeChannel => true
  | _ => false

/-- The four send commands (R193). -/
def isSend : Opcode → Bool
  | .sendStd => true
  | .sendExt => true
  | .remoteStd => true
  | .remoteExt => true
  | _ => false

/-- The error kind of bad operands. -/
def badKind? {α : Type} : Operands α → Option NackKind
  | .good _ => none
  | .bad kind => some kind

/-- The error kind that the field checks of a line reported, if they failed. -/
def fieldError? : Instr → Option NackKind
  | .openChannel a => badKind? a
  | .closeChannel a => badKind? a
  | .sendStd a => badKind? a
  | .sendExt a => badKind? a
  | .remoteStd a => badKind? a
  | .remoteExt a => badKind? a
  | .timestamp a => badKind? a
  | .setCode a => badKind? a
  | .setMask a => badKind? a
  | .customTiming a => badKind? a
  | .preset a => badKind? a
  | .status a => badKind? a
  | .version a => badKind? a
  | .serial a => badKind? a

/-- The reply of a successful command (R95, R141). -/
def successReply : Opcode → Line
  | .openChannel => [0x0D]
  | .closeChannel => [0x0D]
  | .sendStd => [0x7A, 0x0D]
  | .sendExt => [0x5A, 0x0D]
  | .remoteStd => [0x7A, 0x0D]
  | .remoteExt => [0x5A, 0x0D]
  | .timestamp => [0x0D]
  | .setCode => [0x0D]
  | .setMask => [0x0D]
  | .customTiming => [0x0D]
  | .preset => [0x0D]
  | .status => [0x46, 0x30, 0x30, 0x0D]
  | .version => [0x56, 0x31, 0x32, 0x33, 0x34, 0x0D]
  | .serial => [0x4E, 0x32, 0x32, 0x30, 0x38, 0x0D]

/-- An event that is a call of `install`, `start`, `stop`, `uninstall` or `transmit`. -/
def Event.isCall : Event → Bool
  | .call _ _ => true
  | _ => false

/-- The event with the two filter words of an `install` blanked. -/
def Event.blankFilter : Event → Event
  | .call (.install timing _ _) r => .call (.install timing 0 0) r
  | e => e

/-- The handed value with the two filter words of an `install` blanked. -/
def Handed.blankFilter : Handed → Handed
  | .install timing _ _ => .install timing 0 0
  | .transmit f payload ms => .transmit f payload ms

/-- R37: at most 31 bytes, none of them the terminator. -/
def Block.bufferOk (b : Block) : Bool :=
  decide (b.rdBuf.length ≤ 31 ∧ 0x0D ∉ b.rdBuf)

/-- R38: while the reader discards, the buffer is empty. -/
def Block.discardOk (b : Block) : Bool := decide (b.rdMode = .discard → b.rdBuf = [])

/-- R47: the timing is `None` exactly when the phase is `Closed`. -/
def Block.timingOk (b : Block) : Bool := decide (b.timing = .none ↔ b.phase = .closed)

/-- The invariant of the block's state. -/
def Block.inv (b : Block) : Bool := b.bufferOk && b.discardOk && b.timingOk

/-- `k` steps, stopping at the first fault: a finite run (R307). -/
def runSteps : Nat → State → Result
  | 0, s => .next s
  | k + 1, s =>
    match step s with
    | .next t => runSteps k t
    | .fault r => .fault r
    | .refused r => .refused r

/-- The kinds of output item a host tells apart by the first byte (R96). -/
inductive ItemKind where
  | ack
  | nack
  | sendOk
  | queryReply
  | report
  deriving DecidableEq, Repr

/-- The kind of an output item, by its first byte alone (R96). -/
def itemKind? (b : Byte) : Option ItemKind :=
  if b = 0x0D then some .ack
  else if b = 0x07 then some .nack
  else if b = 0x7A ∨ b = 0x5A then some .sendOk
  else if b = 0x46 ∨ b = 0x56 ∨ b = 0x4E then some .queryReply
  else if b = 0x74 ∨ b = 0x54 ∨ b = 0x72 ∨ b = 0x52 then some .report
  else none

/-- The fixed output items of R95. -/
def fixedItems : List Line :=
  [[0x0D], [0x07], [0x7A, 0x0D], [0x5A, 0x0D], [0x46, 0x30, 0x30, 0x0D],
    [0x56, 0x31, 0x32, 0x33, 0x34, 0x0D], [0x4E, 0x32, 0x32, 0x30, 0x38, 0x0D]]

/-- The output items of R95: a fixed item, or the report of a valid frame with or without timestamp. -/
def IsItem (item : Line) : Prop :=
  item ∈ fixedItems ∨
    ∃ f : Frame, f.valid = true ∧
      (item = encodeFrame f ++ [Config.term] ∨
        ∃ ms, item = encodeFrame f ++ stampText ms ++ [Config.term])

/-- The next step is safe: it is no `Poll` that is handed an invalid frame (R247). -/
def safeStep (s : State) : Bool :=
  match s.env.nextStep with
  | .consumeByte _ => true
  | .poll =>
    match s.env.afterStep.nextInbound with
    | .empty => true
    | .frame f => f.valid

/-- The send command whose line is the text of a frame (R250). -/
def sendOf (f : Frame) : Instr :=
  match f.ext, f.payload with
  | false, .data bytes => .sendStd (.good { id := f.id, len := f.len, data := bytes })
  | true, .data bytes => .sendExt (.good { id := f.id, len := f.len, data := bytes })
  | false, .remote => .remoteStd (.good { id := f.id, len := f.len })
  | true, .remote => .remoteExt (.good { id := f.id, len := f.len })

/-- No byte of the line is a lower-case hex letter (R249 b). -/
def upperHex (line : Line) : Bool := line.all fun c => !(decide (0x61 ≤ c.toNat) && decide (c.toNat ≤ 0x66))

end Sys2Proof.Machine
end

