-- ==== Sys2Proof/Certificates/Slice0/Obligations.lean ====
section
/-! DEFINITION. The statements for the provers, in the order of the spec's files: encoding and decoding,
reset, the line framer, dispatch, each command family, errors, the poller and encoder, and the
whole-machine rules. `s`, `t` are states before and after, `es` the events a step added to the trace. -/

open Sys2Proof Sys2Proof.Machine Sys2Proof.Config

/-! ## Encoding and decoding (30_encoding.md, 43_send.md section 5, 46_receive.md section 3) -/

/-- Command lines written out byte by byte from R81, R82 and the examples of R182, R186, R189, R192,
R202, R206, R209, R215, R219 decode to the commands they stand for. That `s031C` has `b0 = 0x03` first is
decision D27 (log 27); the byte codes of the letters and digits are ASCII (log 38). -/
def Obligations.WrittenLinesDecode : Prop :=
  decode [0x4F] = some (.openChannel (.good ())) ∧
  decode [0x43] = some (.closeChannel (.good ())) ∧
  decode [0x74, 0x31, 0x32, 0x33, 0x38, 0x30, 0x30, 0x31, 0x31, 0x32, 0x32, 0x33, 0x33, 0x34, 0x34,
      0x35, 0x35, 0x36, 0x36, 0x37, 0x37] =
    some (.sendStd (.good ⟨0x123, 8, [0x00, 0x11, 0x22, 0x33, 0x44, 0x55, 0x66, 0x77]⟩)) ∧
  decode [0x54, 0x31, 0x46, 0x46, 0x46, 0x46, 0x46, 0x46, 0x46, 0x32, 0x41, 0x41, 0x35, 0x35] =
    some (.sendExt (.good ⟨0x1FFFFFFF, 2, [0xAA, 0x55]⟩)) ∧
  decode [0x72, 0x37, 0x46, 0x46, 0x38] = some (.remoteStd (.good ⟨0x7FF, 8⟩)) ∧
  decode [0x52, 0x31, 0x32, 0x33, 0x34, 0x35, 0x36, 0x37, 0x38, 0x30] =
    some (.remoteExt (.good ⟨0x12345678, 0⟩)) ∧
  decode [0x5A, 0x31] = some (.timestamp (.good true)) ∧
  decode [0x4D, 0x31, 0x32, 0x33, 0x34, 0x35, 0x36, 0x37, 0x38] =
    some (.setCode (.good 0x12345678)) ∧
  decode [0x6D, 0x46, 0x46, 0x46, 0x46, 0x46, 0x46, 0x46, 0x45] =
    some (.setMask (.good 0xFFFFFFFE)) ∧
  decode [0x73, 0x30, 0x33, 0x31, 0x43] = some (.customTiming (.good ⟨0x03, 0x1C⟩)) ∧
  decode [0x53, 0x36] = some (.preset (.good 6)) ∧
  decode [0x46] = some (.status (.good ())) ∧
  decode [0x56] = some (.version (.good ())) ∧
  decode [0x4E] = some (.serial (.good ()))

/-- R84: `HexVal` of a digit string of `n` bytes is the sum of `val(d[i]) * 16^(n-1-i)`, is below
`16^n`, and is defined exactly when every byte is a hex digit. -/
def Obligations.HexValIsPositionalSum : Prop :=
  (∀ (s : Line) (ds : List Nat), s.map hexDigit? = ds.map some →
    hexVal? s = some (∑ i : Fin ds.length, ds[i] * 16 ^ (ds.length - 1 - i)) ∧
    ∑ i : Fin ds.length, ds[i] * 16 ^ (ds.length - 1 - i) < 16 ^ s.length) ∧
  (∀ s : Line, (∃ c ∈ s, hexDigit? c = none) → hexVal? s = none)

/-- R83, R85: which bytes are digits, and their values. A hex digit is `0`-`9`, `A`-`F` or `a`-`f`, and
nothing else; a decimal digit is `0`-`9`, and no letter. Both letter cases are decision D2 (log 13), the
decimal length and preset digits D26 (log 25), the byte codes ASCII (log 38). -/
def Obligations.DigitBytesAndValues : Prop :=
  ∀ (c : Byte) (v : Nat),
    (hexDigit? c = some v ↔
      (v ≤ 9 ∧ c.toNat = 0x30 + v) ∨ (10 ≤ v ∧ v ≤ 15 ∧ c.toNat + 10 = 0x41 + v) ∨
        (10 ≤ v ∧ v ≤ 15 ∧ c.toNat + 10 = 0x61 + v)) ∧
    (decDigit? c = some v ↔ v ≤ 9 ∧ c.toNat = 0x30 + v)

/-- R86: `Hex(v, n)` is `n` digits, each `0`-`9` or upper-case `A`-`F`, and `HexVal` reads it back for
every `v < 16^n`. The upper case is the spec's decision D1 (log 12). -/
def Obligations.HexTextReadsBack : Prop :=
  ∀ v n : Nat, v < 16 ^ n →
    (hexText v n).length = n ∧
    (∀ c ∈ hexText v n, (0x30 ≤ c.toNat ∧ c.toNat ≤ 0x39) ∨ (0x41 ≤ c.toNat ∧ c.toNat ≤ 0x46)) ∧
    hexVal? (hexText v n) = some v

/-- R82, R91: the opcode is the first byte, compared exactly. It alone selects the constructor, each of the
fourteen bytes its own, and a line is no instruction when its first byte is none of them. The fourteen byte
values are the ASCII codes of the letters, which the spec takes from general knowledge (log 38). -/
def Obligations.FirstByteSelectsCommand : Prop :=
  (∀ rest : Line,
    (∃ a, decode (0x4F :: rest) = some (.openChannel a)) ∧
    (∃ a, decode (0x43 :: rest) = some (.closeChannel a)) ∧
    (∃ a, decode (0x74 :: rest) = some (.sendStd a)) ∧
    (∃ a, decode (0x54 :: rest) = some (.sendExt a)) ∧
    (∃ a, decode (0x72 :: rest) = some (.remoteStd a)) ∧
    (∃ a, decode (0x52 :: rest) = some (.remoteExt a)) ∧
    (∃ a, decode (0x5A :: rest) = some (.timestamp a)) ∧
    (∃ a, decode (0x4D :: rest) = some (.setCode a)) ∧
    (∃ a, decode (0x6D :: rest) = some (.setMask a)) ∧
    (∃ a, decode (0x73 :: rest) = some (.customTiming a)) ∧
    (∃ a, decode (0x53 :: rest) = some (.preset a)) ∧
    (∃ a, decode (0x46 :: rest) = some (.status a)) ∧
    (∃ a, decode (0x56 :: rest) = some (.version a)) ∧
    (∃ a, decode (0x4E :: rest) = some (.serial a))) ∧
  ∀ (b : Byte) (rest : Line),
    decode (b :: rest) = none ↔
      b ∉ ([0x4F, 0x43, 0x74, 0x54, 0x72, 0x52, 0x5A, 0x4D, 0x6D, 0x73, 0x53, 0x46, 0x56, 0x4E] :
        List Byte)

/-- R89: accepted fields are the `HexVal` of the digits at their positions, whole and in bounds; every
value in bounds is accepted, and an identifier above its bound refuses the line with OutOfRange and is
never truncated. That OutOfRange comes before every check of what follows the header, and after the
length byte's class, is the order of decision D17 (log 24); that `b0` stands first is D27 (log 27). -/
def Obligations.FieldValuesAreWholeOrRefused : Prop :=
  (∀ line a, decode line = some (.sendStd (.good a)) →
    hexVal? (field line 1 3) = some a.id ∧ a.id ≤ 0x7FF ∧
    ∀ j, (h : j < a.data.length) → hexVal? (field line (5 + 2 * j) 2) = some a.data[j].toNat) ∧
  (∀ line a, decode line = some (.sendExt (.good a)) →
    hexVal? (field line 1 8) = some a.id ∧ a.id ≤ 0x1FFFFFFF ∧
    ∀ j, (h : j < a.data.length) → hexVal? (field line (10 + 2 * j) 2) = some a.data[j].toNat) ∧
  (∀ line a, decode line = some (.remoteStd (.good a)) →
    hexVal? (field line 1 3) = some a.id ∧ a.id ≤ 0x7FF) ∧
  (∀ line a, decode line = some (.remoteExt (.good a)) →
    hexVal? (field line 1 8) = some a.id ∧ a.id ≤ 0x1FFFFFFF) ∧
  (∀ line w, decode line = some (.setCode (.good w)) → hexVal? (field line 1 8) = some w.toNat) ∧
  (∀ line w, decode line = some (.setMask (.good w)) → hexVal? (field line 1 8) = some w.toNat) ∧
  (∀ line v, decode line = some (.customTiming (.good v)) →
    hexVal? (field line 1 2) = some v.b0.toNat ∧ hexVal? (field line 3 2) = some v.b1.toNat) ∧
  (∀ (digits : Line) (w : Nat), digits.length = 8 → hexVal? digits = some w →
    decode (0x4D :: digits) = some (.setCode (.good (BitVec.ofNat 32 w))) ∧
    decode (0x6D :: digits) = some (.setMask (.good (BitVec.ofNat 32 w)))) ∧
  (∀ (d0 d1 : Line) (b0 b1 : Nat), d0.length = 2 → d1.length = 2 →
    hexVal? d0 = some b0 → hexVal? d1 = some b1 →
    decode (0x73 :: (d0 ++ d1)) =
      some (.customTiming (.good ⟨BitVec.ofNat 8 b0, BitVec.ofNat 8 b1⟩))) ∧
  (∀ (ext : Bool) (idText : Line) (id : Nat) (d : Byte) (len : Nat) (tail : Line),
    idText.length = (if ext then 8 else 3) → hexVal? idText = some id →
    id ≤ (if ext then 0x1FFFFFFF else 0x7FF) → decDigit? d = some len → len ≤ 8 →
    (tail.length = 2 * len → (∀ c ∈ tail, hexDigit? c ≠ none) →
      ∃ data, decode ((if ext then 0x54 else 0x74) :: (idText ++ d :: tail)) =
        some (if ext then .sendExt (.good ⟨id, len, data⟩) else .sendStd (.good ⟨id, len, data⟩))) ∧
    decode ((if ext then 0x52 else 0x72) :: (idText ++ [d])) =
      some (if ext then .remoteExt (.good ⟨id, len⟩) else .remoteStd (.good ⟨id, len⟩))) ∧
  (∀ (rest : Line) (id : Nat) (d : Byte) (tail : Line),
    rest.length = 3 → hexVal? rest = some id → 0x7FF < id → decDigit? d ≠ none →
    decode (0x74 :: (rest ++ d :: tail)) = some (.sendStd (.bad .outOfRange)) ∧
    decode (0x72 :: (rest ++ d :: tail)) = some (.remoteStd (.bad .outOfRange))) ∧
  (∀ (rest : Line) (id : Nat) (d : Byte) (tail : Line),
    rest.length = 8 → hexVal? rest = some id → 0x1FFFFFFF < id → decDigit? d ≠ none →
    decode (0x54 :: (rest ++ d :: tail)) = some (.sendExt (.bad .outOfRange)) ∧
    decode (0x52 :: (rest ++ d :: tail)) = some (.remoteExt (.bad .outOfRange)))

/-- R61: the payload bytes of a data frame appear in frame order, in both directions: `data[j]` is the
`j`-th two-digit group after the length digit of an accepted send line, and of a report. -/
def Obligations.PayloadKeepsFrameOrder : Prop :=
  (∀ line a, decode line = some (.sendStd (.good a)) →
    ∀ j, (h : j < a.data.length) → hexVal? (field line (5 + 2 * j) 2) = some a.data[j].toNat) ∧
  (∀ line a, decode line = some (.sendExt (.good a)) →
    ∀ j, (h : j < a.data.length) → hexVal? (field line (10 + 2 * j) 2) = some a.data[j].toNat) ∧
  (∀ (id len : Nat) (bytes : List Byte) (j : Nat), (h : j < bytes.length) →
    hexVal? (field (encodeFrame ⟨id, false, len, .data bytes⟩) (5 + 2 * j) 2) =
      some bytes[j].toNat ∧
    hexVal? (field (encodeFrame ⟨id, true, len, .data bytes⟩) (10 + 2 * j) 2) =
      some bytes[j].toNat)

/-- R87, R90: in a send line with a good identifier, a length byte that is no decimal digit is
MalformedField, the digit 9 is OutOfRange, a wrong count of data bytes is LengthMismatch for `t` and `T`,
a bad data digit is MalformedField, and any byte after the length digit of `r` and `R` is MalformedField.
The kinds and their order are decisions D5, D17, D26 (log 16, 24, 25). -/
def Obligations.SendLineRefusalKinds : Prop :=
  ∀ (ext : Bool) (idText : Line) (id : Nat) (d : Byte) (tail : Line),
    idText.length = idDigits ext → hexVal? idText = some id → id ≤ idMax ext →
    let data : Opcode := if ext then .sendExt else .sendStd
    let remote : Opcode := if ext then .remoteExt else .remoteStd
    let error := fun op : Opcode => (decode (op.byte :: (idText ++ d :: tail))).bind fieldError?
    (decDigit? d = none → error data = some .malformedField ∧ error remote = some .malformedField) ∧
    (d = 0x39 → error data = some .outOfRange ∧ error remote = some .outOfRange) ∧
    (∀ len, decDigit? d = some len → len ≤ 8 →
      (tail.length ≠ 2 * len → error data = some .lengthMismatch) ∧
      (tail.length = 2 * len → (∃ c ∈ tail, hexDigit? c = none) →
        error data = some .malformedField) ∧
      (tail ≠ [] → error remote = some .malformedField))

/-- R87, R263: a line that is not exactly the length of its fixed format is MalformedField (decision D5,
log 16), for the ten commands that are no send; a send line shorter than its header is too. That the length
comes before every other field check, so that a line with a second fault has this kind, is D17 (log 24). -/
def Obligations.WrongLengthIsMalformed : Prop :=
  ∀ (op : Opcode) (line : Line),
    (line.length < op.format.fixedPart →
      fieldError? (decodeAs op line) = some .malformedField) ∧
    (op.format.fixedPart < line.length → isSend op = false →
      fieldError? (decodeAs op line) = some .malformedField)

/-- R87, R90, R263: the other digit fields. A byte that is no hex digit in the identifier of a send, or no
decimal digit in its length (of any identifier and tail), or no hex digit in `M`, `m` and `s`, or no decimal
digit in `Z` and `S`, is MalformedField; `Z2` to `Z9` and `S9` are OutOfRange, and every smaller digit is
accepted with its value. The kinds and their order are decisions D17, D26 (log 24, 25). -/
def Obligations.DigitFieldsRefuseByKind : Prop :=
  (∀ (ext : Bool) (idText : Line) (d : Byte) (tail : Line),
    idText.length = (if ext then 8 else 3) →
    ((∃ c ∈ idText, hexDigit? c = none) ∨ decDigit? d = none) →
    decode ((if ext then 0x54 else 0x74) :: (idText ++ d :: tail)) =
      some (if ext then .sendExt (.bad .malformedField) else .sendStd (.bad .malformedField)) ∧
    decode ((if ext then 0x52 else 0x72) :: (idText ++ d :: tail)) =
      some (if ext then .remoteExt (.bad .malformedField)
        else .remoteStd (.bad .malformedField))) ∧
  (∀ digits : Line, digits.length = 8 → (∃ c ∈ digits, hexDigit? c = none) →
    decode (0x4D :: digits) = some (.setCode (.bad .malformedField)) ∧
    decode (0x6D :: digits) = some (.setMask (.bad .malformedField))) ∧
  (∀ digits : Line, digits.length = 4 → (∃ c ∈ digits, hexDigit? c = none) →
    decode (0x73 :: digits) = some (.customTiming (.bad .malformedField))) ∧
  (∀ c : Byte, decDigit? c = none →
    decode [0x5A, c] = some (.timestamp (.bad .malformedField)) ∧
    decode [0x53, c] = some (.preset (.bad .malformedField))) ∧
  (∀ (c : Byte) (n : Nat), decDigit? c = some n →
    (n ≤ 1 → decode [0x5A, c] = some (.timestamp (.good (n == 1)))) ∧
    (2 ≤ n → decode [0x5A, c] = some (.timestamp (.bad .outOfRange))) ∧
    (∀ h : n < 9, decode [0x53, c] = some (.preset (.good ⟨n, h⟩))) ∧
    (9 ≤ n → decode [0x53, c] = some (.preset (.bad .outOfRange))))

/-- A line that decodes without an error kind decodes to a well-formed command: the decoder bounds every
operand (R88, R89, R90). -/
def Obligations.AcceptedLineIsWellFormed : Prop :=
  ∀ line i, decode line = some i → fieldError? i = none → i.wellFormed = true

/-- Decode and encode agree, for every well-formed command of all fourteen (R81, R94). -/
def Obligations.DecodeEncodeAgree : Prop :=
  ∀ i : Instr, i.wellFormed = true → decode (encode i) = some i

/-- The other direction: a line that decodes to a well-formed command, written in upper-case hex, is the
encoding of that command. The upper-case reading is the spec's decision D30 (log 13). -/
def Obligations.EncodeDecodeAgreeUpperCase : Prop :=
  ∀ line i, decode line = some i → i.wellFormed = true → upperHex line = true → encode i = line

/-- R249: the frame encoder and the send decoder are inverses: (a) on every valid frame; (b) on every
accepted send line in upper-case hex. The spec derives the law and decides its reading (D30, log 13). -/
def Obligations.FrameCodecInverse : Prop :=
  (∀ f : Frame, f.valid = true → decodeFrame (encodeFrame f) = some (.good f)) ∧
  (∀ line f, decodeFrame line = some (.good f) → upperHex line = true → encodeFrame f = line)

/-- R250: the report of a valid frame, without timestamp and terminator, is the text of the send command
of that frame, and that command is well-formed. The spec derives this rule. -/
def Obligations.ReportIsSendText : Prop :=
  ∀ f : Frame, f.valid = true → encode (sendOf f) = encodeFrame f ∧ (sendOf f).wellFormed = true

/-! ## Reset (10_state.md section 5, 70_reset_and_hazards.md section 1) -/

/-- R45, R290: every field of `st` at its reset value, nothing emitted, nothing called. The phase and the
timing are the source's; the filter, `ts_en` and the framer values are the spec's decisions D8, D9, D29
(log 9, 10, 11). -/
def Obligations.ResetValues : Prop :=
  State.reset.st.phase = .closed ∧ State.reset.st.timing = .none ∧
  State.reset.st.rdBuf = [] ∧ State.reset.st.rdMode = .accumulate ∧
  State.reset.st.filtCode = 0x00000000 ∧ State.reset.st.filtMask = 0xFFFFFFFF ∧
  State.reset.st.tsEn = false ∧ State.reset.output = [] ∧ State.reset.trace = []

/-- The invariant of the block's state holds at reset (R37, R38, R47). -/
def Obligations.ResetMeetsInvariant : Prop := State.reset.st.inv = true

/-! ## The line framer (40_reader.md) -/

/-- A step runs the decoded instruction: when the scheduler's next step is the terminator, the reader
accumulates, and the buffer's line decodes to `i`, the step is `exec i` at the state with that schedule
entry taken and the buffer emptied (R121). -/
def Obligations.StepRunsDecodedInstruction : Prop :=
  ∀ (s : State) (i : Instr),
    s.env.nextStep = .consumeByte 0x0D → s.st.rdMode = .accumulate → decode s.st.rdBuf = some i →
    step s = exec i { s with st := { s.st with rdBuf := [] }, env := s.env.afterStep }

/-- R121, R147: the same step on a line that is no instruction (an empty one, or an unknown first byte)
answers the unknown command: a pulse, then one IllegalState NACK, in every phase; and the empty line is
such a line (decision D4, log 15; the pulse is D15, log 23). -/
def Obligations.UnknownLineIsNackedWithPulse : Prop :=
  decode [] = none ∧
  ∀ s : State,
    s.env.nextStep = .consumeByte 0x0D → s.st.rdMode = .accumulate → decode s.st.rdBuf = none →
    step s = .next { s with
      st := { s.st with rdBuf := [] }
      env := s.env.afterStep
      output := s.output ++ [0x07]
      trace := s.trace ++ [.indPulse, .nack .illegalState] }

/-- R122: the 32nd byte of a line overflows: one NACK of kind BufferOverflow, an empty buffer, the rest
of the line discarded, no dispatch, no call and no pulse. The discard mode is decision D3 (log 14), that
every byte but 0x0D counts D6 (log 17), and that no pulse is recorded D15 (log 23). -/
def Obligations.OverflowNacksOnce : Prop :=
  ∀ (s : State) (b : Byte),
    s.env.nextStep = .consumeByte b → s.st.rdMode = .accumulate → b ≠ 0x0D →
    s.st.rdBuf.length = 31 →
    step s = .next { s with
      st := { s.st with rdBuf := [], rdMode := .discard }
      env := s.env.afterStep
      output := s.output ++ [0x07]
      trace := s.trace ++ [.nack .bufferOverflow] }

/-- R123: while discarding, a byte other than the terminator changes nothing, and the terminator only
ends the discarding (decision D3, log 14). -/
def Obligations.DiscardUntilTerminator : Prop :=
  ∀ (s : State) (b : Byte),
    s.env.nextStep = .consumeByte b → s.st.rdMode = .discard →
    step s = .next { s with
      st := { s.st with rdMode := if b = 0x0D then .accumulate else .discard }
      env := s.env.afterStep }

/-- R124: every other byte, of any value but 0x0D, is appended to the buffer, and nothing else happens
(decision D6, log 17). -/
def Obligations.OrdinaryByteIsAppended : Prop :=
  ∀ (s : State) (b : Byte),
    s.env.nextStep = .consumeByte b → s.st.rdMode = .accumulate → b ≠ 0x0D →
    s.st.rdBuf.length < 31 →
    step s = .next { s with
      st := { s.st with rdBuf := s.st.rdBuf ++ [b] }
      env := s.env.afterStep }

/-- The bytes of a line of at most 31 bytes, then its terminator, run to the dispatch of exactly that line:
the framer drops, adds and reorders nothing (R62, R121, R124, R126 c, e). That every byte but 0x0D is kept,
LF, NUL, BEL and 0x80 to 0xFF among them, is decision D6 (log 17). -/
def Obligations.HostLineIsDispatchedWhole : Prop :=
  ∀ (s : State) (line : Line) (rest : List StepInput),
    s.st.rdMode = .accumulate → s.st.rdBuf = [] → 0x0D ∉ line → line.length ≤ 31 →
    s.env.agenda = (line ++ [0x0D]).map .consumeByte ++ rest →
    runSteps (line.length + 1) s =
      dispatch line { s with env := { s.env with agenda := rest } }

/-- The text of any well-formed command, sent by the host with its terminator, runs that command: the
encoder, the framer, the decoder and the dispatch agree (R81, R93, R94, R121). -/
def Obligations.HostTextRunsCommand : Prop :=
  ∀ (s : State) (i : Instr) (rest : List StepInput),
    s.st.rdMode = .accumulate → s.st.rdBuf = [] → i.wellFormed = true →
    s.env.agenda = (encode i ++ [0x0D]).map .consumeByte ++ rest →
    runSteps ((encode i).length + 1) s =
      exec i { s with env := { s.env with agenda := rest } }

/-- R126 d, g: 32 or more bytes without a terminator, from an empty line, give exactly one NACK and leave
the reader discarding, whatever their number. That the overflow records no pulse is decision D15 (log 23),
that every byte but 0x0D counts is D6 (log 17), and that the discard mode drops the rest is D3 (log 14). -/
def Obligations.OverlongLineNacksExactlyOnce : Prop :=
  ∀ (s : State) (bytes : Line) (rest : List StepInput),
    s.st.rdMode = .accumulate → s.st.rdBuf = [] → 0x0D ∉ bytes → 32 ≤ bytes.length →
    s.env.agenda = bytes.map .consumeByte ++ rest →
    runSteps bytes.length s = .next { s with
      st := { s.st with rdMode := .discard }
      env := { s.env with agenda := rest }
      output := s.output ++ [0x07]
      trace := s.trace ++ [.nack .bufferOverflow] }

/-! ## Dispatch and errors (41_dispatch.md, 60_exceptions.md) -/

/-- R143: a command in a phase where it is not legal is refused with an IllegalState NACK: no field of
`st` written, no controller call. A legal command goes on to its field checks: a line whose checks failed
is refused with their kind. That this refusal records no pulse, for `O` and `C` neither, is R146's
decision D15 (log 23), and that the phase comes before the fields is D17 (log 24). -/
def Obligations.PhaseGatesCommands : Prop :=
  ∀ (i : Instr) (s : State),
    (legalPhase i.opcode s.st.phase = false →
      ∃ t : State, exec i s = .next t ∧ t.st = s.st ∧ t.output = s.output ++ [0x07] ∧
        t.env = s.env ∧ t.handed = s.handed ∧
        (t.trace = s.trace ++ [Event.nack .illegalState] ∨
          t.trace = s.trace ++ [Event.indPulse, .nack .illegalState])) ∧
    (legalPhase i.opcode s.st.phase = true →
      ∀ kind, fieldError? i = some kind →
        exec i s = .next { s with
          output := s.output ++ [0x07], trace := s.trace ++ [.nack kind] })

/-- R88: a line whose field checks failed acts on nothing, in every phase: no field of `st` is written, no
controller call made, and only its response emitted, one NACK (whether a pulse comes before it is R146's
matter). -/
def Obligations.FailedFieldChecksActOnNothing : Prop :=
  ∀ (i : Instr) (s : State), fieldError? i ≠ none →
    ∃ (kind : NackKind) (pulses : List Event), exec i s = .next { s with
      output := s.output ++ [0x07], trace := s.trace ++ pulses ++ [.nack kind] } ∧
      (pulses = [] ∨ pulses = [.indPulse])

/-- R144: a command that raises NACK writes no field of `st` and emits only the NACK byte. Unless the kind
is ControllerFailure it makes no controller call; a ControllerFailure follows the calls that were made,
and the trace holds them. (No line decodes to operands whose own error kind is ControllerFailure, the
case the last premise sets apart.) -/
def Obligations.RefusedCommandHasNoOtherEffect : Prop :=
  ∀ (i : Instr) (s t : State) (es : List Event) (kind : NackKind),
    exec i s = .next t → t.trace = s.trace ++ es → .nack kind ∈ es →
    t.st = s.st ∧ t.output = s.output ++ [0x07] ∧
    (kind ≠ .controllerFailure →
      (∀ e ∈ es, e.isCall = false) ∧ t.handed = s.handed ∧
        (es = [.nack kind] ∨ es = [.indPulse, .nack kind])) ∧
    (kind = .controllerFailure → fieldError? i ≠ some .controllerFailure →
      ∃ calls : List Event, calls ≠ [] ∧ (∀ e ∈ calls, e.isCall = true) ∧
        (es = calls ++ [Event.nack kind] ∨ es = calls ++ [Event.indPulse, .nack kind]))

/-- R261: a ControllerFailure NACK follows controller calls that stay in the trace; the last of them is
the one that returned `fail`, every earlier one returned `ok`, `st` is unchanged, and the call that failed
is `install` or `start` for `O`, `stop` or `uninstall` for `C`, and `transmit` for the four sends. (No
line decodes to operands whose own error kind is ControllerFailure, the case the last premise sets apart.)
That `start` comes only after an ok of `install`, and `uninstall` only after an ok of `stop`, is decisions
D12 and D13 (log 21); the timeout of 1000 ms is D25 (log 26). -/
def Obligations.ControllerFailureFollowsFailedCall : Prop :=
  ∀ (i : Instr) (s t : State) (es : List Event),
    exec i s = .next t → t.trace = s.trace ++ es → .nack .controllerFailure ∈ es →
    fieldError? i ≠ some .controllerFailure →
    t.st = s.st ∧
    ∃ (before : List Call) (op : Call) (after : List Event),
      es = before.map (Event.call · .ok) ++ [Event.call op .fail] ++ after ∧
      (∀ e ∈ after, e.isCall = false) ∧
      match i.opcode with
      | .openChannel =>
        (op = .install s.st.timing s.st.filtCode s.st.filtMask ∧ before = []) ∨
          (op = .start ∧ before = [.install s.st.timing s.st.filtCode s.st.filtMask])
      | .closeChannel => (op = .stop ∧ before = []) ∨ (op = .uninstall ∧ before = [.stop])
      | .sendStd => (∃ f, op = .transmit f 1000) ∧ before = []
      | .sendExt => (∃ f, op = .transmit f 1000) ∧ before = []
      | .remoteStd => (∃ f, op = .transmit f 1000) ∧ before = []
      | .remoteExt => (∃ f, op = .transmit f 1000) ∧ before = []
      | _ => False

/-- R141: every command, in every state, completes with exactly one response: the NACK byte, with one
`Nack` event as the last event, or its success reply, with no `Nack` event. The framing of the query
replies is decision D14 (log 22). -/
def Obligations.EveryCommandAnswersOnce : Prop :=
  ∀ (i : Instr) (s : State),
    ∃ (t : State) (es : List Event), exec i s = .next t ∧ t.trace = s.trace ++ es ∧
      ((t.output = s.output ++ [0x07] ∧ ∃ (kind : NackKind) (init : List Event),
          es = init ++ [Event.nack kind] ∧
          ∀ e ∈ init, ∀ k, e ≠ .nack k) ∨
        (t.output = s.output ++ successReply i.opcode ∧ fieldError? i = none ∧
          legalPhase i.opcode s.st.phase = true ∧ ∀ e ∈ es, ∀ k, e ≠ .nack k))

/-- R260: each error kind is raised only by the commands its row lists, and BufferOverflow by no dispatched
line. The kinds of the unknown command and of out-of-range digits are decisions D4, D26 (log 15, 25). -/
def Obligations.KindsAreRaisedOnlyWhereListed : Prop :=
  ∀ (line : Line) (s t : State) (es : List Event) (kind : NackKind),
    dispatch line s = .next t → t.trace = s.trace ++ es → .nack kind ∈ es →
    match kind with
    | .malformedField => decode line ≠ none
    | .outOfRange => ∃ i, decode line = some i ∧
        (isSend i.opcode = true ∨ i.opcode = .preset ∨ i.opcode = .timestamp)
    | .lengthMismatch => ∃ i, decode line = some i ∧ (i.opcode = .sendStd ∨ i.opcode = .sendExt)
    | .illegalState => decode line = none ∨ ∃ i, decode line = some i ∧
        i.opcode ∉ [.timestamp, .status, .version, .serial]
    | .controllerFailure => ∃ i, decode line = some i ∧
        (isSend i.opcode = true ∨ isLifecycle i.opcode = true)
    | .bufferOverflow => False

/-- R146: a dispatched line records exactly one pulse when it is an unknown command, or an `O` or `C` that
is not refused for its fields in a legal phase; every other line records none (decision D15, log 23). That
an `O` or `C` with bad operands in an illegal phase pulses is the order of the checks, D17 (log 24); that the
empty line is an unknown command, and an unknown command pulses, is D4 (log 15). -/
def Obligations.PulseInExactlyTheFiveCases : Prop :=
  ∀ (line : Line) (s t : State) (es : List Event),
    dispatch line s = .next t → t.trace = s.trace ++ es →
    es.count .indPulse =
      match decode line with
      | none => 1
      | some i =>
        if isLifecycle i.opcode = true ∧
          (legalPhase i.opcode s.st.phase = false ∨ fieldError? i = none) then 1 else 0

/-- R142, R67: the controller calls of each command, none made twice and none retried: `O` makes `install`
and `start`; `C` makes `stop` and `uninstall`; a send at most its one `transmit`; every other command none.
That the second call of `O` and `C` is made only after the first one's ok, and that nothing is cleaned up
after a failure, is decisions D12 and D13 (log 21); the timeout of 1000 ms is D25 (log 26). -/
def Obligations.CommandsCallOnlyTheirOperations : Prop :=
  ∀ (i : Instr) (s t : State) (es : List Event),
    exec i s = .next t → t.trace = s.trace ++ es →
    let install := Call.install s.st.timing s.st.filtCode s.st.filtMask
    match i.opcode with
    | .openChannel => es.filter Event.isCall ∈ [[], [.call install .fail],
        [.call install .ok, .call .start .ok], [.call install .ok, .call .start .fail]]
    | .closeChannel => es.filter Event.isCall ∈ [[], [.call .stop .fail],
        [.call .stop .ok, .call .uninstall .ok], [.call .stop .ok, .call .uninstall .fail]]
    | _ => if isSend i.opcode = true
        then es.filter Event.isCall = [] ∨
          ∃ (f : Frame) (r : CtlResult), es.filter Event.isCall = [.call (.transmit f 1000) r]
        else es.filter Event.isCall = []

/-! ## The commands (42_channel.md to 45_query.md) -/

/-- R160, R142: `O` in `Configured` completes for every answer of the controller: both calls ok opens the
channel; a failed `install` makes no `start`; a failed call leaves `st` as it was. The single-operation
reading, the pulses and the missing clean-up are decisions D12, D15 (log 21, 23). -/
def Obligations.OpenFollowsInstallAndStart : Prop :=
  ∀ s : State, s.st.phase = .configured →
    let install := Call.install s.st.timing s.st.filtCode s.st.filtMask
    let port := Handed.install (portTiming s.st.timing) s.st.filtCode s.st.filtMask
    (s.env.nextResult = .ok → s.env.afterResult.nextResult = .ok →
      exec (.openChannel (.good ())) s = .next { s with
        st := { s.st with phase := .opened }
        env := s.env.afterResult.afterResult
        output := s.output ++ [0x0D]
        trace := s.trace ++ [.call install .ok, .call .start .ok, .indPulse]
        handed := s.handed ++ [port] }) ∧
    (s.env.nextResult = .fail →
      exec (.openChannel (.good ())) s = .next { s with
        env := s.env.afterResult
        output := s.output ++ [0x07]
        trace := s.trace ++ [.call install .fail, .indPulse, .nack .controllerFailure]
        handed := s.handed ++ [port] }) ∧
    (s.env.nextResult = .ok → s.env.afterResult.nextResult = .fail →
      exec (.openChannel (.good ())) s = .next { s with
        env := s.env.afterResult.afterResult
        output := s.output ++ [0x07]
        trace := s.trace ++ [.call install .ok, .call .start .fail, .indPulse,
          .nack .controllerFailure]
        handed := s.handed ++ [port] })

/-- R164, R142: `C` in `Open` completes for every answer of the controller: both calls ok closes the channel
and clears the timing, and keeps the filter and the timestamp flag; a failed call leaves `st` as it was.
Decisions D10, D11, D13, D15 (log 19, 20, 21, 23). -/
def Obligations.CloseFollowsStopAndUninstall : Prop :=
  ∀ s : State, s.st.phase = .opened →
    (s.env.nextResult = .ok → s.env.afterResult.nextResult = .ok →
      exec (.closeChannel (.good ())) s = .next { s with
        st := { s.st with phase := .closed, timing := .none }
        env := s.env.afterResult.afterResult
        output := s.output ++ [0x0D]
        trace := s.trace ++ [.call .stop .ok, .call .uninstall .ok, .indPulse] }) ∧
    (s.env.nextResult = .fail →
      exec (.closeChannel (.good ())) s = .next { s with
        env := s.env.afterResult
        output := s.output ++ [0x07]
        trace := s.trace ++ [.call .stop .fail, .indPulse, .nack .controllerFailure] }) ∧
    (s.env.nextResult = .ok → s.env.afterResult.nextResult = .fail →
      exec (.closeChannel (.good ())) s = .next { s with
        env := s.env.afterResult.afterResult
        output := s.output ++ [0x07]
        trace := s.trace ++ [.call .stop .ok, .call .uninstall .fail, .indPulse,
          .nack .controllerFailure] })

/-- R180, R184: `t` and `T` in `Open` make one `transmit` call of the data frame with their operands, and
complete: `z` (standard) or `Z` (extended) and ACK when it answers ok, a ControllerFailure NACK without a
pulse when it fails. Nothing of `st` is written. The timeout of 1000 ms is decision D25 (log 26), the NACK
without a pulse D15 (log 23). -/
def Obligations.DataSendTransmitsOnce : Prop :=
  ∀ (s : State) (ext : Bool) (a : DataArgs), s.st.phase = .opened →
    let i : Instr := if ext then .sendExt (.good a) else .sendStd (.good a)
    let f : Frame := { id := a.id, ext := ext, len := a.len, payload := .data a.data }
    exec i s = .next { s with
      env := s.env.afterResult
      output := s.output ++
        (if s.env.nextResult = .ok then [if ext then 0x5A else 0x7A, 0x0D] else [0x07])
      trace := s.trace ++ [.call (.transmit f 1000) s.env.nextResult] ++
        (if s.env.nextResult = .ok then [] else [.nack .controllerFailure])
      handed := s.handed ++ [.transmit f a.data 1000] }

/-- R187, R190, R194: `r` and `R` in `Open` do the same with the remote frame of their operands. The
payload bytes handed over with it are a free value under no law (decision D18, log 7); the timeout of
1000 ms is D25 (log 26), the NACK without a pulse D15 (log 23). -/
def Obligations.RemoteSendTransmitsOnce : Prop :=
  ∀ (s : State) (ext : Bool) (a : RemoteArgs), s.st.phase = .opened →
    let i : Instr := if ext then .remoteExt (.good a) else .remoteStd (.good a)
    let f : Frame := { id := a.id, ext := ext, len := a.len, payload := .remote }
    exec i s = .next { s with
      env := s.env.afterResult
      output := s.output ++
        (if s.env.nextResult = .ok then [if ext then 0x5A else 0x7A, 0x0D] else [0x07])
      trace := s.trace ++ [.call (.transmit f 1000) s.env.nextResult] ++
        (if s.env.nextResult = .ok then [] else [.nack .controllerFailure])
      handed := s.handed ++ [.transmit f (remotePayload s.handed.length) 1000] }

/-- R200: `Z0` and `Z1` write the timestamp flag in every phase, answer ACK, and change nothing else.
R200 rests on decision D26 for its digit (log 25). -/
def Obligations.TimestampCommandSetsFlag : Prop :=
  ∀ (s : State) (on : Bool),
    exec (.timestamp (.good on)) s = .next { s with
      st := { s.st with tsEn := on }, output := s.output ++ [0x0D] }

/-- R204, R207: in `Configured`, `M` writes the acceptance code and `m` the acceptance mask, with any
32-bit value; each answers ACK and changes nothing else. -/
def Obligations.FilterCommandsWriteOneWord : Prop :=
  ∀ (s : State) (w : Word), s.st.phase = .configured →
    exec (.setCode (.good w)) s = .next { s with
      st := { s.st with filtCode := w }, output := s.output ++ [0x0D] } ∧
    exec (.setMask (.good w)) s = .next { s with
      st := { s.st with filtMask := w }, output := s.output ++ [0x0D] }

/-- R212, R216: while not `Open`, `S` and `s` set the timing and the phase `Configured` in one update,
with every preset and every pair of raw bytes; each answers ACK and changes nothing else. Which byte is
`b0` is decision D27 (log 27). -/
def Obligations.TimingCommandsConfigure : Prop :=
  ∀ (s : State), s.st.phase ≠ .opened →
    (∀ k : Fin 9, exec (.preset (.good k)) s = .next { s with
      st := { s.st with timing := .preset k, phase := .configured }
      output := s.output ++ [0x0D] }) ∧
    (∀ b0 b1 : Byte, exec (.customTiming (.good ⟨b0, b1⟩)) s = .next { s with
      st := { s.st with timing := .custom b0 b1, phase := .configured }
      output := s.output ++ [0x0D] })

/-- R230, R232, R234: in every phase, `F`, `V` and `N` answer `F00`, `V1234` and `N2208` with a final CR,
and change nothing else. The final CR is decision D14 (log 22). -/
def Obligations.QueriesReplyConstants : Prop :=
  ∀ s : State,
    exec (.status (.good ())) s = .next { s with
      output := s.output ++ [0x46, 0x30, 0x30, 0x0D] } ∧
    exec (.version (.good ())) s = .next { s with
      output := s.output ++ [0x56, 0x31, 0x32, 0x33, 0x34, 0x0D] } ∧
    exec (.serial (.good ())) s = .next { s with
      output := s.output ++ [0x4E, 0x32, 0x32, 0x30, 0x38, 0x0D] }

/-- R218: with a custom timing, `O` hands `install` the tuple `BTR_DECODE(b0, b1)`, whatever it is, with
the filter words, and the trace records `Custom(b0, b1)` (decision D21, log 8). -/
def Obligations.InstallReceivesDecodedTiming : Prop :=
  ∀ (s t : State) (b0 b1 : Byte), s.st.phase = .configured → s.st.timing = .custom b0 b1 →
    exec (.openChannel (.good ())) s = .next t →
    t.handed = s.handed ++
      [.install (.tuple (btrDecode b0 b1)) s.st.filtCode s.st.filtMask] ∧
    ∃ (r : CtlResult) (es : List Event), t.trace =
      s.trace ++ .call (.install (.custom b0 b1) s.st.filtCode s.st.filtMask) r :: es

/-- R193: a command calls `transmit` only if it is one of the four sends and the channel is open, and then
it makes that one call and no other. The spec derives this rule. No part of R193 is that a send while not
open records the kind IllegalState whatever its operands, by the order of the checks, D17 (log 24), that it
records no pulse, D15 (log 23), and that the call passes 1000 ms, D25 (log 26). -/
def Obligations.TransmitOnlyWhileOpen : Prop :=
  ∀ (i : Instr) (s t : State) (es : List Event),
    exec i s = .next t → t.trace = s.trace ++ es →
    (isSend i.opcode = true → s.st.phase ≠ .opened →
      t = s.raiseNack .illegalState) ∧
    ((∃ f ms r, .call (.transmit f ms) r ∈ es) →
      isSend i.opcode = true ∧ s.st.phase = .opened ∧
      ∃ (f : Frame) (r : CtlResult), es.filter Event.isCall = [.call (.transmit f 1000) r])

/-- R46: what each command may write of `st`: `O` the phase, `C`, `S` and `s` the phase and timing, `M`
the code, `m` the mask, `Z` the flag, every other command nothing; and no command writes the framer. The spec derives
this table. -/
def Obligations.EachCommandWritesOnlyItsFields : Prop :=
  ∀ (i : Instr) (s t : State), exec i s = .next t →
    match i.opcode with
    | .openChannel => t.st = { s.st with phase := t.st.phase }
    | .closeChannel => t.st = { s.st with phase := t.st.phase, timing := t.st.timing }
    | .preset => t.st = { s.st with phase := t.st.phase, timing := t.st.timing }
    | .customTiming => t.st = { s.st with phase := t.st.phase, timing := t.st.timing }
    | .setCode => t.st = { s.st with filtCode := t.st.filtCode }
    | .setMask => t.st = { s.st with filtMask := t.st.filtMask }
    | .timestamp => t.st = { s.st with tsEn := t.st.tsEn }
    | _ => t.st = s.st

/-! ## The Receive Poller and the encoder (46_receive.md) -/

/-- R246: the pull is made in every phase, and a valid frame polled while the phase is `Closed` or
`Configured` is dropped: it is taken from the controller, recorded as pulled, and nothing else changes. -/
def Obligations.PollDropsFrameUnlessOpen : Prop :=
  (∀ (s : State) (f : Frame),
    s.env.nextStep = .poll → s.env.afterStep.nextInbound = .frame f → f.valid = true →
    s.st.phase ≠ .opened →
    step s = .next { s with
      env := s.env.afterStep.afterInbound, trace := s.trace ++ [.receive (.frame f)] }) ∧
  (∀ s t : State, s.env.nextStep = .poll → step s = .next t →
    t.trace = s.trace ++ [Event.receive s.env.afterStep.nextInbound])

/-- R245: `Poll` is one pull and nothing of `st` written: an empty answer does nothing more, an invalid
frame faults, a valid one is dropped unless the channel is open, and then its encoding is emitted; no
ACK, NACK or other call. The pull is recorded on every path, the fault's too (R14). The fault stands, by decision D19 (log 4), in place of a behaviour no source gives
for an invalid frame. -/
def Obligations.PollIsOnePull : Prop :=
  ∀ s : State, s.env.nextStep = .poll →
    let a := s.env.afterStep.nextInbound
    let s1 : State := { s with
      env := s.env.afterStep.afterInbound, trace := s.trace ++ [.receive a] }
    (a = .empty → step s = .next s1) ∧
    ∀ f, a = .frame f →
      (f.valid = false → step s = .fault (.invalidInboundFrame s1)) ∧
      (f.valid = true → s.st.phase ≠ .opened → step s = .next s1) ∧
      (f.valid = true → s.st.phase = .opened →
        ∃ env : Env, step s = .next { s1 with
          env := env, output := s.output ++ (encodeReport f s1).1 })

/-- R245, R240: an empty pull changes nothing else; a valid frame polled while `Open` is written to the
host as its report, with the timestamp digits of one clock reading exactly when `ts_en` is set. The
upper-case digits and the clock draw are decisions D1, D22 (log 5, 12). -/
def Obligations.PollReportsFrameWhileOpen : Prop :=
  ∀ s : State, s.env.nextStep = .poll →
    (s.env.afterStep.nextInbound = .empty →
      step s = .next { s with
        env := s.env.afterStep.afterInbound, trace := s.trace ++ [.receive .empty] }) ∧
    (∀ f : Frame, s.env.afterStep.nextInbound = .frame f → f.valid = true →
      s.st.phase = .opened →
      (s.st.tsEn = false →
        step s = .next { s with
          env := s.env.afterStep.afterInbound
          trace := s.trace ++ [.receive (.frame f)]
          output := s.output ++ (encodeFrame f ++ [0x0D]) }) ∧
      (s.st.tsEn = true →
        step s = .next { s with
          env := s.env.afterStep.afterInbound.afterClock
          trace := s.trace ++ [.receive (.frame f)]
          output := s.output ++ (encodeFrame f ++
            hexText (s.env.afterStep.afterInbound.nextClock % 60000) 4 ++ [0x0D]) }))

/-- R240, R241: the report text of each of the four kinds of frame: tag, identifier digits, length digit,
and the data digits of a data frame (upper case is decision D1, log 12). -/
def Obligations.ReportTextOfEachKind : Prop :=
  ∀ (id len : Nat) (bytes : List Byte),
    encodeFrame ⟨id, false, len, .data bytes⟩ =
      0x74 :: (hexText id 3 ++ hexText len 1 ++ (bytes.map fun b => hexText b.toNat 2).flatten) ∧
    encodeFrame ⟨id, true, len, .data bytes⟩ =
      0x54 :: (hexText id 8 ++ hexText len 1 ++ (bytes.map fun b => hexText b.toNat 2).flatten) ∧
    encodeFrame ⟨id, false, len, .remote⟩ = 0x72 :: (hexText id 3 ++ hexText len 1) ∧
    encodeFrame ⟨id, true, len, .remote⟩ = 0x52 :: (hexText id 8 ++ hexText len 1)

/-- R243 a: the report of a valid frame, with timestamp and terminator, is at most 31 bytes long. The spec
derives it. -/
def Obligations.ReportIsAtMost31Bytes : Prop :=
  ∀ (f : Frame) (ms : Nat), f.valid = true →
    (encodeFrame f ++ stampText ms ++ [0x0D]).length ≤ 31

/-- R247, R14: a step faults exactly when it is a `Poll` whose pulled frame is not valid, in every phase, and
no step is refused; every other step, of either kind, goes on. The machine that the fault leaves differs from
the one before in the schedule entry and the answer taken and the pull recorded, and in nothing else. The
fault is decision D19 (log 4), the record of every call D31 (log 41). -/
def Obligations.StepStopsOnlyOnInvalidFrame : Prop :=
  ∀ s : State,
    (safeStep s = true → ∃ t : State, step s = .next t) ∧
    (safeStep s = false → step s = .fault (.invalidInboundFrame { s with
      env := s.env.afterStep.afterInbound
      trace := s.trace ++ [.receive s.env.afterStep.nextInbound] }))

/-! ## Whole-machine rules -/

/-- R37, R38, R47: every step, from every state that meets the invariant, gives a state that meets it.
The discard part rests on decision D3, the timing part on D11 (log 14, 20). -/
def Obligations.StepKeepsInvariant : Prop :=
  ∀ s t : State, s.st.inv = true → step s = .next t → t.st.inv = true

/-- R168, R169: the only phase changes are `Closed` to `Configured` by `S` or `s`, `Configured` to `Open`
by `O` with both calls ok, and `Open` to `Closed` by `C` with both calls ok; and while the phase stays
`Open` the timing never changes. The spec derives these rules. What the conclusion says beyond them is the
pulse of a successful `O` and `C`, decision D15 (log 23), and the timing None after `C`, D11 (log 20). -/
def Obligations.PhaseChangesOnlyByItsCommands : Prop :=
  ∀ s t : State, step s = .next t →
    (t.st.phase ≠ s.st.phase →
      s.env.nextStep = .consumeByte 0x0D ∧ s.st.rdMode = .accumulate ∧
      ((s.st.phase = .closed ∧ t.st.phase = .configured ∧
          ((∃ k, decode s.st.rdBuf = some (.preset (.good k)) ∧ t.st.timing = .preset k) ∨
            ∃ v, decode s.st.rdBuf = some (.customTiming (.good v)) ∧
              t.st.timing = .custom v.b0 v.b1)) ∨
        (s.st.phase = .configured ∧ t.st.phase = .opened ∧ t.st.timing = s.st.timing ∧
          decode s.st.rdBuf = some (.openChannel (.good ())) ∧
          t.trace = s.trace ++ [Event.call (.install s.st.timing s.st.filtCode s.st.filtMask) .ok,
            .call .start .ok, .indPulse]) ∨
        (s.st.phase = .opened ∧ t.st.phase = .closed ∧ t.st.timing = .none ∧
          decode s.st.rdBuf = some (.closeChannel (.good ())) ∧
          t.trace = s.trace ++ [Event.call .stop .ok, .call .uninstall .ok, .indPulse]))) ∧
    (s.st.phase = .opened → t.st.phase = .opened → t.st.timing = s.st.timing)

/-- R95, R69, R141: every step appends nothing or exactly one output item, and a `Poll` never an ACK or
NACK item (decision D14, log 22, for the query replies; D24, log 29, for the atomicity). -/
def Obligations.EveryStepEmitsAtMostOneItem : Prop :=
  ∀ s t : State, step s = .next t →
    ∃ item : Line, t.output = s.output ++ item ∧ (item = [] ∨ IsItem item) ∧
      (s.env.nextStep = .poll → item ∉ fixedItems)

/-- R96: the first byte alone tells the kind of an output item, each of the five kinds; every item but NACK
ends at its first 0x0D, and no item holds 0x0D or 0x07 anywhere but at its end. The spec derives this rule. -/
def Obligations.ItemsAreSelfDelimiting : Prop :=
  ∀ item : Line, IsItem item →
    (∃ (b : Byte) (rest : Line), item = b :: rest ∧ (itemKind? b).isSome = true ∧
      (itemKind? b = some .ack ↔ item = [0x0D]) ∧
      (itemKind? b = some .nack ↔ item = [0x07]) ∧
      (itemKind? b = some .sendOk ↔ item = [0x7A, 0x0D] ∨ item = [0x5A, 0x0D]) ∧
      (itemKind? b = some .queryReply ↔
        item = [0x46, 0x30, 0x30, 0x0D] ∨ item = [0x56, 0x31, 0x32, 0x33, 0x34, 0x0D] ∨
          item = [0x4E, 0x32, 0x32, 0x30, 0x38, 0x0D]) ∧
      (itemKind? b = some .report ↔ item ∉ fixedItems)) ∧
    ∃ (body : Line) (last : Byte), item = body ++ [last] ∧ 0x0D ∉ body ∧ 0x07 ∉ body ∧
      (last = 0x0D ∨ item = [0x07])

/-- R11, R14, R71: no step takes back or reorders anything of the host output, the call trace or the
values handed to the controller; the scripts of the environment are only ever read from the front, the
schedule by one entry a step. The scripts and `handed` are the model's own (log 2, 6). -/
def Obligations.PortsOnlyGrow : Prop :=
  ∀ s t : State, step s = .next t →
    s.output <+: t.output ∧ s.trace <+: t.trace ∧ s.handed <+: t.handed ∧
    t.env.agenda = s.env.agenda.tail ∧ t.env.results <:+ s.env.results ∧
    t.env.inbound <:+ s.env.inbound ∧ t.env.clock <:+ s.env.clock

/-- R36: every frame a step passes to `transmit` is valid, and the timeout passed is 1000 ms (R195;
decisions D18, D25, log 7, 26). -/
def Obligations.TransmittedFramesAreValid : Prop :=
  ∀ (s t : State) (es : List Event) (f : Frame) (ms : Nat) (r : CtlResult),
    step s = .next t → t.trace = s.trace ++ es → .call (.transmit f ms) r ∈ es →
    f.valid = true ∧ ms = 1000

/-- R33, R34, R210: the filter words never influence anything but what `O` passes to `install`: two states
that differ only in them, stepped, emit the same bytes, read the same environment, agree on every other
field of `st`, and on the call trace and the handed values up to the filter words of `install`; each keeps
its own filter words, but for one that both wrote alike. -/
def Obligations.FilterNeverAffectsHostOutput : Prop :=
  ∀ (s t : State) (code mask : Word), step s = .next t →
    ∃ t' : State, step { s with st := { s.st with filtCode := code, filtMask := mask } } = .next t' ∧
      t'.output = t.output ∧ t'.env = t.env ∧ t'.st.phase = t.st.phase ∧
      t'.st.timing = t.st.timing ∧ t'.st.tsEn = t.st.tsEn ∧ t'.st.rdBuf = t.st.rdBuf ∧
      t'.st.rdMode = t.st.rdMode ∧
      t'.trace.map Event.blankFilter = t.trace.map Event.blankFilter ∧
      t'.handed.map Handed.blankFilter = t.handed.map Handed.blankFilter ∧
      ((t.st.filtCode = s.st.filtCode ∧ t'.st.filtCode = code) ∨
        t'.st.filtCode = t.st.filtCode) ∧
      ((t.st.filtMask = s.st.filtMask ∧ t'.st.filtMask = mask) ∨
        t'.st.filtMask = t.st.filtMask)

/-- R35, R242: the timestamp flag is read by nothing but the encoder, and written by nothing but `Z`. Two
states that differ only in the flag, stepped on a byte, agree on everything else; a step that runs `Z` writes
its digit in both (R200; the decimal digit is D26, log 25), and after every other byte each keeps its own
flag. Stepped on a `Poll`, each keeps its own flag, they differ in the report and the clock draw alone, and
in nothing when no frame is reported. -/
def Obligations.TimestampFlagOnlyReadByPoll : Prop :=
  ∀ (s t : State) (flag : Bool), step s = .next t →
    ∃ t' : State, step { s with st := { s.st with tsEn := flag } } = .next t' ∧
      (∀ b, s.env.nextStep = .consumeByte b →
        let runsZ := fun on : Bool => b = 0x0D ∧ s.st.rdMode = .accumulate ∧
          decode s.st.rdBuf = some (.timestamp (.good on))
        t' = { t with st := { t.st with tsEn := t'.st.tsEn } } ∧
        (∀ on, runsZ on → t.st.tsEn = on ∧ t'.st.tsEn = on) ∧
        ((∀ on, ¬ runsZ on) → t.st.tsEn = s.st.tsEn ∧ t'.st.tsEn = flag)) ∧
      (s.env.nextStep = .poll →
        t.st.tsEn = s.st.tsEn ∧
        t' = { t with
          st := { t.st with tsEn := flag }
          output := t'.output
          env := { t.env with clock := t'.env.clock, draws := t'.env.draws } } ∧
        ((s.st.phase ≠ .opened ∨ s.env.afterStep.nextInbound = .empty) →
          t' = { t with st := { t.st with tsEn := flag } }))

/-- R12, R269: a build with `STRICT_ID = false` is refused in every state, and the strict build's step is
never refused (decision D7, log 18). -/
def Obligations.OnlyStrictBuildRuns : Prop :=
  ∀ s : State, stepOf { strictId := false } s = .refused .nonStrictBuild ∧
    ∀ r, step s ≠ .refused r
end

