-- ==== Sys2Proof/Laws/Digits.lean ====
section
/-! SUPPORT. The digits of the encoding: one digit read and written, texts and values taken apart one digit
at a time, and the lengths of the texts. -/

namespace Sys2Proof

/-- Writing one hex digit and reading it back. -/
theorem hexDigit?_hexDigitByte {d : Nat} (h : d < 16) : hexDigit? (hexDigitByte d) = some d := by
  have key : ∀ d : Fin 16, hexDigit? (hexDigitByte d.val) = some d.val := by decide
  exact key ⟨d, h⟩

/-- Every written digit is `0`-`9` or upper-case `A`-`F`. -/
theorem hexDigitByte_upper {d : Nat} (h : d < 16) :
    (0x30 ≤ (hexDigitByte d).toNat ∧ (hexDigitByte d).toNat ≤ 0x39) ∨
      (0x41 ≤ (hexDigitByte d).toNat ∧ (hexDigitByte d).toNat ≤ 0x46) := by
  have key : ∀ d : Fin 16, (0x30 ≤ (hexDigitByte d.val).toNat ∧ (hexDigitByte d.val).toNat ≤ 0x39) ∨
      (0x41 ≤ (hexDigitByte d.val).toNat ∧ (hexDigitByte d.val).toNat ≤ 0x46) := by decide
  exact key ⟨d, h⟩

/-- A hex digit's value is below 16. -/
theorem hexDigit?_lt {c : Byte} {d : Nat} (h : hexDigit? c = some d) : d < 16 := by
  unfold hexDigit? at h
  split at h
  · cases h; omega
  · split at h
    · cases h; omega
    · split at h
      · cases h; omega
      · cases h

/-- A decimal digit's value is below 10. -/
theorem decDigit?_lt {c : Byte} {d : Nat} (h : decDigit? c = some d) : d < 10 := by
  unfold decDigit? at h
  split at h
  · cases h; omega
  · cases h

/-- Writing one decimal digit and reading it back. -/
theorem decDigit?_decDigitByte {d : Nat} (h : d < 10) : decDigit? (decDigitByte d) = some d := by
  have key : ∀ d : Fin 10, decDigit? (decDigitByte d.val) = some d.val := by decide
  exact key ⟨d, h⟩

/-- Reading one decimal digit and writing it back. -/
theorem decDigitByte_of_decDigit? {c : Byte} {d : Nat} (h : decDigit? c = some d) :
    decDigitByte d = c := by
  unfold decDigit? at h
  split at h
  · cases h
    apply BitVec.eq_of_toNat_eq
    simp only [decDigitByte, BitVec.toNat_ofNat]
    omega
  · cases h

/-- Reading one hex digit that is not lower case and writing it back. -/
theorem hexDigitByte_of_hexDigit? {c : Byte} {d : Nat} (h : hexDigit? c = some d)
    (hu : ¬(0x61 ≤ c.toNat ∧ c.toNat ≤ 0x66)) : hexDigitByte d = c := by
  unfold hexDigit? at h
  apply BitVec.eq_of_toNat_eq
  split at h
  · cases h
    simp only [hexDigitByte, BitVec.toNat_ofNat]
    split <;> omega
  · split at h
    · cases h
      simp only [hexDigitByte, BitVec.toNat_ofNat]
      split <;> omega
    · simp only [reduceCtorEq] at h

/-- `HexVal` of a string with one more digit at its end. -/
theorem hexValFrom_append (acc : Nat) (s : Line) (c : Byte) :
    hexValFrom acc (s ++ [c]) =
      (hexValFrom acc s).bind fun v => (hexDigit? c).map fun d => v * 16 + d := by
  induction s generalizing acc with
  | nil => simp only [List.nil_append, hexValFrom]; cases hexDigit? c <;> rfl
  | cons b s ih =>
    simp only [List.cons_append, hexValFrom]
    cases hexDigit? b with
    | none => rfl
    | some d => exact ih _

@[simp] theorem hexText_length (v n : Nat) : (hexText v n).length = n := by
  induction n generalizing v with
  | zero => rfl
  | succ n ih => simp [hexText, ih]

/-- Every byte of a hex text is a written digit. -/
theorem mem_hexText {v n : Nat} {c : Byte} (h : c ∈ hexText v n) : ∃ d < 16, c = hexDigitByte d := by
  induction n generalizing v with
  | zero => simp [hexText] at h
  | succ n ih =>
    simp only [hexText, List.mem_append, List.mem_singleton] at h
    rcases h with h | h
    · exact ih h
    · exact ⟨v % 16, Nat.mod_lt _ (by decide), h⟩

/-- A written digit is neither the terminator nor the NACK byte. -/
theorem hexDigitByte_ne_control {d : Nat} (h : d < 16) :
    hexDigitByte d ≠ 0x0D ∧ hexDigitByte d ≠ 0x07 := by
  have key : ∀ d : Fin 16, hexDigitByte d.val ≠ 0x0D ∧ hexDigitByte d.val ≠ 0x07 := by decide
  exact key ⟨d, h⟩

@[simp] theorem hexBytes_length (bytes : List Byte) : (hexBytes bytes).length = 2 * bytes.length := by
  induction bytes with
  | nil => rfl
  | cons b bytes ih => simp only [hexBytes] at ih; simp [hexBytes, ih]; omega

/-- A one-digit hex text of a length is its decimal digit (R241). -/
theorem hexText_one_eq {n : Nat} (h : n < 10) : hexText n 1 = [decDigitByte n] := by
  have key : ∀ n : Fin 10, hexText n.val 1 = [decDigitByte n.val] := by decide
  exact key ⟨n, h⟩

end Sys2Proof
end

