-- ==== Sys2Proof/Laws/Codec.lean ====
section
/-! SUPPORT. The decoder, once and for all: what each check and each format decoder accepts, as an
equivalence. A proof about decoding cites these and unfolds no decoder. -/

namespace Sys2Proof

/-! ## Field checks -/

@[simp] theorem Operands.bind_eq_good {α β : Type} {a : Operands α} {k : α → Operands β} {v : β} :
    a.bind k = .good v ↔ ∃ u, a = .good u ∧ k u = .good v := by
  cases a <;> simp [Operands.bind]

@[simp] theorem require_eq_good {ok : Bool} {e : NackKind} {u : Unit} :
    require ok e = .good u ↔ ok = true := by
  cases ok <;> simp [require]

@[simp] theorem orMalformed_eq_good {α : Type} {o : Option α} {v : α} :
    orMalformed o = .good v ↔ o = some v := by
  cases o <;> simp [orMalformed]

/-- A decimal digit at a position: the byte there, and its value. -/
theorem digitAt_eq_good {line : Line} {i v : Nat} :
    digitAt line i = .good v ↔ ∃ c, (line.drop i).head? = some c ∧ decDigit? c = some v := by
  simp [digitAt, Option.bind_eq_some_iff]

/-! ## Hex values -/

/-- `HexVal` of a string with one more digit at its end. -/
theorem hexVal?_append (s : Line) (c : Byte) :
    hexVal? (s ++ [c]) = (hexVal? s).bind fun v => (hexDigit? c).map fun d => v * 16 + d :=
  hexValFrom_append 0 s c

/-- The value of `n` digits is below `16^n`. -/
theorem hexVal?_lt {s : Line} {v : Nat} (h : hexVal? s = some v) : v < 16 ^ s.length := by
  induction s using List.reverseRecOn generalizing v with
  | nil => simp [hexVal?, hexValFrom] at h; simp [← h]
  | append_singleton s c ih =>
    rw [hexVal?_append] at h
    simp only [Option.bind_eq_some_iff, Option.map_eq_some_iff] at h
    obtain ⟨w, hw, d, hd, rfl⟩ := h
    have := ih hw
    have := hexDigit?_lt hd
    simp [pow_succ]
    omega

/-! ## Opcodes -/

/-- The opcode of a byte is the one that has this byte. -/
theorem opcodeOf?_eq_some {b : Byte} {op : Opcode} : opcodeOf? b = some op ↔ op.byte = b := by
  constructor
  · intro h
    simpa using List.find?_some h
  · rintro rfl
    cases op <;> decide

@[simp] theorem decodeAs_opcode (op : Opcode) (line : Line) : (decodeAs op line).opcode = op := by
  cases op <;> rfl

/-- A line decodes to an instruction exactly when it begins with its opcode and the decoder of that
opcode gives it. -/
theorem decode_eq_some {line : Line} {i : Instr} :
    decode line = some i ↔
      ∃ rest, line = i.opcode.byte :: rest ∧ decodeAs i.opcode line = i := by
  cases line with
  | nil => simp [decode]
  | cons b rest =>
    simp only [decode, Option.map_eq_some_iff, opcodeOf?_eq_some]
    constructor
    · rintro ⟨op, rfl, rfl⟩
      exact ⟨rest, by rw [decodeAs_opcode], by rw [decodeAs_opcode]⟩
    · rintro ⟨r, h, h2⟩
      exact ⟨_, (List.cons.inj h).1.symm, h2⟩

/-! ## Format decoders -/

theorem decodeBare_eq_good {line : Line} {u : Unit} : decodeBare line = .good u ↔ line.length = 1 := by
  simp [decodeBare, exactLength, Format.fixedPart]

theorem decodeTimestamp_eq_good {line : Line} {on : Bool} :
    decodeTimestamp line = .good on ↔ line.length = 2 ∧ digitAt line 1 = .good on.toNat := by
  simp only [decodeTimestamp, decodeDigit, Operands.bind_eq_good, exactLength, require_eq_good,
    Format.fixedPart]
  constructor
  · rintro ⟨n, ⟨_, h1, h2⟩, _, h3, h4⟩
    simp only [beq_iff_eq, decide_eq_true_eq, Operands.good.injEq] at h1 h3 h4
    subst h4
    have hn : n = 0 ∨ n = 1 := by omega
    rcases hn with rfl | rfl <;> exact ⟨h1, h2⟩
  · rintro ⟨h1, h2⟩
    refine ⟨_, ⟨(), by simpa using h1, h2⟩, (), ?_, ?_⟩ <;> cases on <;> rfl

theorem decodePreset_eq_good {line : Line} {k : Fin 9} :
    decodePreset line = .good k ↔ line.length = 2 ∧ digitAt line 1 = .good k.val := by
  simp only [decodePreset, decodeDigit, Operands.bind_eq_good, exactLength, require_eq_good,
    Format.fixedPart]
  constructor
  · rintro ⟨n, ⟨_, h1, h2⟩, h3⟩
    split at h3
    · simp only [beq_iff_eq, Operands.good.injEq] at h1 h3
      subst h3
      exact ⟨h1, h2⟩
    · cases h3
  · rintro ⟨h1, h2⟩
    exact ⟨_, ⟨(), by simpa using h1, h2⟩, by simp⟩

theorem decodeWord32_eq_good {line : Line} {w : Word} :
    decodeWord32 line = .good w ↔ line.length = 9 ∧ hexVal? (field line 1 8) = some w.toNat := by
  simp only [decodeWord32, Operands.bind_eq_good, exactLength, require_eq_good, orMalformed_eq_good,
    Format.fixedPart]
  constructor
  · rintro ⟨_, h1, v, h2, h3⟩
    simp only [beq_iff_eq, Operands.good.injEq] at h1 h3
    have hlt := hexVal?_lt h2
    have hl : (field line 1 8).length = 8 := by simp [field, h1]
    rw [hl] at hlt
    subst h3
    refine ⟨h1, h2.trans ?_⟩
    simp
    omega
  · rintro ⟨h1, h2⟩
    exact ⟨(), by simpa using h1, _, h2, by simp⟩

theorem decodeBtr_eq_good {line : Line} {v : BtrArgs} :
    decodeBtr line = .good v ↔
      line.length = 5 ∧ hexVal? (field line 1 2) = some v.b0.toNat ∧
        hexVal? (field line 3 2) = some v.b1.toNat := by
  obtain ⟨b0, b1⟩ := v
  simp only [decodeBtr, Operands.bind_eq_good, exactLength, require_eq_good, orMalformed_eq_good,
    Format.fixedPart]
  constructor
  · rintro ⟨_, h1, v0, h2, v1, h3, h4⟩
    simp only [beq_iff_eq, Operands.good.injEq, BtrArgs.mk.injEq] at h1 h4
    obtain ⟨rfl, rfl⟩ := h4
    have hlt0 := hexVal?_lt h2
    have hlt1 := hexVal?_lt h3
    have hl0 : (field line 1 2).length = 2 := by simp [field, h1]
    have hl1 : (field line 3 2).length = 2 := by simp [field, h1]
    rw [hl0] at hlt0
    rw [hl1] at hlt1
    refine ⟨h1, h2.trans ?_, h3.trans ?_⟩ <;> simp <;> omega
  · rintro ⟨h1, h2, h3⟩
    exact ⟨(), by simpa using h1, _, h2, _, h3, by simp⟩

/-- An accepted header: long enough, its identifier and length at their positions, both in bounds. -/
theorem decodeHeader_eq_good {ext : Bool} {line : Line} {h : RemoteArgs} :
    decodeHeader ext line = .good h ↔
      idDigits ext + 2 ≤ line.length ∧ hexVal? (field line 1 (idDigits ext)) = some h.id ∧
        digitAt line (idDigits ext + 1) = .good h.len ∧ h.id ≤ idMax ext ∧ h.len ≤ 8 := by
  obtain ⟨id, len⟩ := h
  simp only [decodeHeader, Operands.bind_eq_good, require_eq_good, orMalformed_eq_good,
    decide_eq_true_eq, Operands.good.injEq, RemoteArgs.mk.injEq]
  constructor
  · rintro ⟨_, h1, id', h2, len', h3, _, h4, _, h5, rfl, rfl⟩
    exact ⟨h1, h2, h3, h4, h5⟩
  · rintro ⟨h1, h2, h3, h4, h5⟩
    exact ⟨(), h1, _, h2, _, h3, (), h4, (), h5, rfl, rfl⟩

/-- An accepted data send: an accepted header, then exactly its data digits. -/
theorem decodeData_eq_good {ext : Bool} {line : Line} {a : DataArgs} :
    decodeData ext line = .good a ↔
      decodeHeader ext line = .good ⟨a.id, a.len⟩ ∧
        line.length - (idDigits ext + 2) = 2 * a.len ∧
        hexBytes? (line.drop (idDigits ext + 2)) = some a.data := by
  obtain ⟨id, len, data⟩ := a
  simp only [decodeData, Operands.bind_eq_good, require_eq_good, orMalformed_eq_good, beq_iff_eq,
    Operands.good.injEq, DataArgs.mk.injEq]
  constructor
  · rintro ⟨⟨i, l⟩, h1, _, h2, d, h3, rfl, rfl, rfl⟩
    exact ⟨h1, h2, h3⟩
  · rintro ⟨h1, h2, h3⟩
    exact ⟨_, h1, (), h2, _, h3, rfl, rfl, rfl⟩

/-- An accepted remote send: an accepted header, and nothing after it. -/
theorem decodeRemote_eq_good {ext : Bool} {line : Line} {a : RemoteArgs} :
    decodeRemote ext line = .good a ↔
      decodeHeader ext line = .good a ∧ line.length = idDigits ext + 2 := by
  simp only [decodeRemote, Operands.bind_eq_good, require_eq_good, beq_iff_eq, Operands.good.injEq]
  constructor
  · rintro ⟨h, h1, _, h2, rfl⟩
    exact ⟨h1, h2⟩
  · rintro ⟨h1, h2⟩
    exact ⟨_, h1, (), h2, rfl⟩

end Sys2Proof
end

