-- ==== Sys2Proof/Laws/State.lean ====
section
/-! SUPPORT. One lemma per field of State for each named update, each true by rfl, so that no proof has
to unfold a record update. -/

namespace Sys2Proof.Machine

@[simp] theorem State.emit_st (s : State) (bytes : Line) :
    (s.emit bytes).st = s.st := rfl
@[simp] theorem State.emit_env (s : State) (bytes : Line) :
    (s.emit bytes).env = s.env := rfl
@[simp] theorem State.emit_output (s : State) (bytes : Line) :
    (s.emit bytes).output = s.output ++ bytes := rfl
@[simp] theorem State.emit_trace (s : State) (bytes : Line) :
    (s.emit bytes).trace = s.trace := rfl
@[simp] theorem State.emit_handed (s : State) (bytes : Line) :
    (s.emit bytes).handed = s.handed := rfl

@[simp] theorem State.record_st (s : State) (e : Event) :
    (s.record e).st = s.st := rfl
@[simp] theorem State.record_env (s : State) (e : Event) :
    (s.record e).env = s.env := rfl
@[simp] theorem State.record_output (s : State) (e : Event) :
    (s.record e).output = s.output := rfl
@[simp] theorem State.record_trace (s : State) (e : Event) :
    (s.record e).trace = s.trace ++ [e] := rfl
@[simp] theorem State.record_handed (s : State) (e : Event) :
    (s.record e).handed = s.handed := rfl

@[simp] theorem State.pulse_st (s : State) :
    (s.pulse).st = s.st := rfl
@[simp] theorem State.pulse_env (s : State) :
    (s.pulse).env = s.env := rfl
@[simp] theorem State.pulse_output (s : State) :
    (s.pulse).output = s.output := rfl
@[simp] theorem State.pulse_trace (s : State) :
    (s.pulse).trace = s.trace ++ [Event.indPulse] := rfl
@[simp] theorem State.pulse_handed (s : State) :
    (s.pulse).handed = s.handed := rfl

@[simp] theorem State.ack_st (s : State) :
    (s.ack).st = s.st := rfl
@[simp] theorem State.ack_env (s : State) :
    (s.ack).env = s.env := rfl
@[simp] theorem State.ack_output (s : State) :
    (s.ack).output = s.output ++ [Config.term] := rfl
@[simp] theorem State.ack_trace (s : State) :
    (s.ack).trace = s.trace := rfl
@[simp] theorem State.ack_handed (s : State) :
    (s.ack).handed = s.handed := rfl

@[simp] theorem State.raiseNack_st (s : State) (k : NackKind) :
    (s.raiseNack k).st = s.st := rfl
@[simp] theorem State.raiseNack_env (s : State) (k : NackKind) :
    (s.raiseNack k).env = s.env := rfl
@[simp] theorem State.raiseNack_output (s : State) (k : NackKind) :
    (s.raiseNack k).output = s.output ++ [Config.nackByte] := rfl
@[simp] theorem State.raiseNack_trace (s : State) (k : NackKind) :
    (s.raiseNack k).trace = s.trace ++ [Event.nack k] := rfl
@[simp] theorem State.raiseNack_handed (s : State) (k : NackKind) :
    (s.raiseNack k).handed = s.handed := rfl

@[simp] theorem State.configure_st (s : State) (t : Timing) :
    (s.configure t).st = { s.st with timing := t, phase := .configured } := rfl
@[simp] theorem State.configure_env (s : State) (t : Timing) :
    (s.configure t).env = s.env := rfl
@[simp] theorem State.configure_output (s : State) (t : Timing) :
    (s.configure t).output = s.output := rfl
@[simp] theorem State.configure_trace (s : State) (t : Timing) :
    (s.configure t).trace = s.trace := rfl
@[simp] theorem State.configure_handed (s : State) (t : Timing) :
    (s.configure t).handed = s.handed := rfl

@[simp] theorem State.enterOpen_st (s : State) :
    (s.enterOpen).st = { s.st with phase := .opened } := rfl
@[simp] theorem State.enterOpen_env (s : State) :
    (s.enterOpen).env = s.env := rfl
@[simp] theorem State.enterOpen_output (s : State) :
    (s.enterOpen).output = s.output := rfl
@[simp] theorem State.enterOpen_trace (s : State) :
    (s.enterOpen).trace = s.trace := rfl
@[simp] theorem State.enterOpen_handed (s : State) :
    (s.enterOpen).handed = s.handed := rfl

@[simp] theorem State.enterClosed_st (s : State) :
    (s.enterClosed).st = { s.st with phase := .closed, timing := .none } := rfl
@[simp] theorem State.enterClosed_env (s : State) :
    (s.enterClosed).env = s.env := rfl
@[simp] theorem State.enterClosed_output (s : State) :
    (s.enterClosed).output = s.output := rfl
@[simp] theorem State.enterClosed_trace (s : State) :
    (s.enterClosed).trace = s.trace := rfl
@[simp] theorem State.enterClosed_handed (s : State) :
    (s.enterClosed).handed = s.handed := rfl

@[simp] theorem State.setFiltCode_st (s : State) (w : Word) :
    (s.setFiltCode w).st = { s.st with filtCode := w } := rfl
@[simp] theorem State.setFiltCode_env (s : State) (w : Word) :
    (s.setFiltCode w).env = s.env := rfl
@[simp] theorem State.setFiltCode_output (s : State) (w : Word) :
    (s.setFiltCode w).output = s.output := rfl
@[simp] theorem State.setFiltCode_trace (s : State) (w : Word) :
    (s.setFiltCode w).trace = s.trace := rfl
@[simp] theorem State.setFiltCode_handed (s : State) (w : Word) :
    (s.setFiltCode w).handed = s.handed := rfl

@[simp] theorem State.setFiltMask_st (s : State) (w : Word) :
    (s.setFiltMask w).st = { s.st with filtMask := w } := rfl
@[simp] theorem State.setFiltMask_env (s : State) (w : Word) :
    (s.setFiltMask w).env = s.env := rfl
@[simp] theorem State.setFiltMask_output (s : State) (w : Word) :
    (s.setFiltMask w).output = s.output := rfl
@[simp] theorem State.setFiltMask_trace (s : State) (w : Word) :
    (s.setFiltMask w).trace = s.trace := rfl
@[simp] theorem State.setFiltMask_handed (s : State) (w : Word) :
    (s.setFiltMask w).handed = s.handed := rfl

@[simp] theorem State.setTsEn_st (s : State) (on : Bool) :
    (s.setTsEn on).st = { s.st with tsEn := on } := rfl
@[simp] theorem State.setTsEn_env (s : State) (on : Bool) :
    (s.setTsEn on).env = s.env := rfl
@[simp] theorem State.setTsEn_output (s : State) (on : Bool) :
    (s.setTsEn on).output = s.output := rfl
@[simp] theorem State.setTsEn_trace (s : State) (on : Bool) :
    (s.setTsEn on).trace = s.trace := rfl
@[simp] theorem State.setTsEn_handed (s : State) (on : Bool) :
    (s.setTsEn on).handed = s.handed := rfl

@[simp] theorem State.setRdBuf_st (s : State) (line : Line) :
    (s.setRdBuf line).st = { s.st with rdBuf := line } := rfl
@[simp] theorem State.setRdBuf_env (s : State) (line : Line) :
    (s.setRdBuf line).env = s.env := rfl
@[simp] theorem State.setRdBuf_output (s : State) (line : Line) :
    (s.setRdBuf line).output = s.output := rfl
@[simp] theorem State.setRdBuf_trace (s : State) (line : Line) :
    (s.setRdBuf line).trace = s.trace := rfl
@[simp] theorem State.setRdBuf_handed (s : State) (line : Line) :
    (s.setRdBuf line).handed = s.handed := rfl

@[simp] theorem State.setRdMode_st (s : State) (m : ReaderMode) :
    (s.setRdMode m).st = { s.st with rdMode := m } := rfl
@[simp] theorem State.setRdMode_env (s : State) (m : ReaderMode) :
    (s.setRdMode m).env = s.env := rfl
@[simp] theorem State.setRdMode_output (s : State) (m : ReaderMode) :
    (s.setRdMode m).output = s.output := rfl
@[simp] theorem State.setRdMode_trace (s : State) (m : ReaderMode) :
    (s.setRdMode m).trace = s.trace := rfl
@[simp] theorem State.setRdMode_handed (s : State) (m : ReaderMode) :
    (s.setRdMode m).handed = s.handed := rfl

end Sys2Proof.Machine
end

