-- ==== Sys2Proof/Laws/Ops.lean ====
section
/-! SUPPORT. For each shared operation, what it does, once: reading the environment, the controller calls,
the refusals and guards of a handler, the one transmit call, and the cases of the two steps. -/

namespace Sys2Proof.Machine

open Sys2Proof.Config (StepInput CtlResult RxAnswer)

/-! ## Reading the environment -/

theorem Env.nextStep_of_agenda {e : Env} {i : StepInput} {rest : List StepInput}
    (h : e.agenda = i :: rest) : e.nextStep = i ∧ e.afterStep = { e with agenda := rest } := by
  simp [Env.nextStep, Env.afterStep, h]

theorem Env.nextResult_of_results {e : Env} {r : CtlResult} {rest : List CtlResult}
    (h : e.results = r :: rest) : e.nextResult = r ∧ e.afterResult = { e with results := rest } := by
  simp [Env.nextResult, Env.afterResult, h]

/-- Taking a step entry shortens the agenda, and leaves the other scripts alone. -/
theorem Env.afterStep_scripts (e : Env) :
    e.afterStep.agenda = e.agenda.tail ∧ e.afterStep.results = e.results ∧
      e.afterStep.inbound = e.inbound ∧ e.afterStep.clock = e.clock := by
  unfold Env.afterStep; split <;> simp [*]

theorem Env.afterResult_scripts (e : Env) :
    e.afterResult.agenda = e.agenda ∧ e.afterResult.results = e.results.tail ∧
      e.afterResult.inbound = e.inbound ∧ e.afterResult.clock = e.clock := by
  unfold Env.afterResult; split <;> simp [*]

theorem Env.afterInbound_scripts (e : Env) :
    e.afterInbound.agenda = e.agenda ∧ e.afterInbound.results = e.results ∧
      e.afterInbound.inbound = e.inbound.tail ∧ e.afterInbound.clock = e.clock := by
  unfold Env.afterInbound; split <;> simp [*]

theorem Env.afterClock_scripts (e : Env) :
    e.afterClock.agenda = e.agenda ∧ e.afterClock.results = e.results ∧
      e.afterClock.inbound = e.inbound ∧ e.afterClock.clock = e.clock.tail := by
  unfold Env.afterClock; split <;> simp [*]

/-! ## Controller calls -/

@[simp] theorem State.callController_result (s : State) (op : Call) :
    (s.callController op).1 = s.env.nextResult := rfl
@[simp] theorem State.callController_st (s : State) (op : Call) :
    (s.callController op).2.st = s.st := rfl
@[simp] theorem State.callController_env (s : State) (op : Call) :
    (s.callController op).2.env = s.env.afterResult := rfl
@[simp] theorem State.callController_output (s : State) (op : Call) :
    (s.callController op).2.output = s.output := rfl
@[simp] theorem State.callController_trace (s : State) (op : Call) :
    (s.callController op).2.trace = s.trace ++ [Event.call op s.env.nextResult] := rfl
@[simp] theorem State.callController_handed (s : State) (op : Call) :
    (s.callController op).2.handed = s.handed ++ handOver op s.handed.length := rfl

/-- A call splits a handler by the controller's answer. -/
theorem State.callController_eq (s : State) (op : Call) :
    s.callController op = (s.env.nextResult, (s.callController op).2) := rfl

/-! ## Guards of a handler -/

@[simp] theorem withOperands_good {α : Type} (v : α) (s : State) (k : α → Result) :
    withOperands (.good v) s k = k v := rfl
@[simp] theorem withOperands_bad {α : Type} (e : NackKind) (s : State) (k : α → Result) :
    withOperands (.bad e) s k = .next (s.raiseNack e) := rfl
@[simp] theorem whenPhase_legal (s : State) (k : Result) : whenPhase true s k = k := rfl
@[simp] theorem whenPhase_illegal (s : State) (k : Result) :
    whenPhase false s k = .next (s.raiseNack .illegalState) := rfl
@[simp] theorem whenPhaseOrPulse_legal (s : State) (k : Result) : whenPhaseOrPulse true s k = k := rfl
@[simp] theorem whenPhaseOrPulse_illegal (s : State) (k : Result) :
    whenPhaseOrPulse false s k = .next (s.pulse.raiseNack .illegalState) := rfl

/-- A send's one call, and both its answers. -/
theorem transmitFrame_eq (f : Frame) (reply : Line) (s : State) :
    transmitFrame f reply s = .next { s with
      env := s.env.afterResult
      output := s.output ++ (if s.env.nextResult = .ok then reply else [Config.nackByte])
      trace := s.trace ++ [Event.call (.transmit f Config.txTimeoutMs) s.env.nextResult] ++
        (if s.env.nextResult = .ok then [] else [.nack .controllerFailure])
      handed := s.handed ++
        [.transmit f (portPayload f s.handed.length) Config.txTimeoutMs] } := by
  unfold transmitFrame State.callController
  cases h : s.env.nextResult <;>
    simp [refuseLine, State.raiseNack, State.emit, State.record, handOver]

/-! ## The two steps -/

/-- The block's own build runs every step. -/
theorem step_eq_runStep (s : State) : step s = runStep s := rfl

theorem step_consumeByte {s : State} {b : Byte} (h : s.env.nextStep = .consumeByte b) :
    step s = consumeByte b { s with env := s.env.afterStep } := by
  rw [step_eq_runStep, runStep, h]

theorem step_poll {s : State} (h : s.env.nextStep = .poll) :
    step s = poll { s with env := s.env.afterStep } := by
  rw [step_eq_runStep, runStep, h]

/-- What a consumed byte does that ends no line: the framer's three quiet cases (R122 to R124). -/
theorem consumeByte_quiet {b : Byte} {s : State}
    (h : ¬(s.st.rdMode = .accumulate ∧ b = Config.term)) :
    consumeByte b s = .next (if s.st.rdMode = .discard then
        (if b = Config.term then s.setRdMode .accumulate else s)
      else if s.st.rdBuf.length = Config.lineCap - 1 then
        ((s.raiseNack .bufferOverflow).setRdBuf []).setRdMode .discard
      else s.setRdBuf (s.st.rdBuf ++ [b])) := by
  unfold consumeByte
  cases hm : s.st.rdMode with
  | discard => simp
  | accumulate =>
    have hb : ¬ b = Config.term := fun hb => h ⟨hm, hb⟩
    simp only [hb, if_false, overflow]
    split <;> simp

/-- A terminator in an accumulating reader ends the line (R121). -/
theorem consumeByte_term {s : State} (h : s.st.rdMode = .accumulate) :
    consumeByte Config.term s = dispatch s.st.rdBuf (s.setRdBuf []) := by
  simp [consumeByte, h, endLine]


/-- Every step is a byte that ends no line, a dispatched line, or a poll. -/
theorem step_cases (s : State) :
    (∃ b, s.env.nextStep = .consumeByte b ∧ ¬(s.st.rdMode = .accumulate ∧ b = Config.term) ∧
      step s = consumeByte b { s with env := s.env.afterStep }) ∨
    (s.env.nextStep = .consumeByte Config.term ∧ s.st.rdMode = .accumulate ∧
      step s = dispatch s.st.rdBuf
        { s with st := { s.st with rdBuf := [] }, env := s.env.afterStep }) ∨
    (s.env.nextStep = .poll ∧ step s = poll { s with env := s.env.afterStep }) := by
  cases h : s.env.nextStep with
  | poll => exact .inr (.inr ⟨rfl, step_poll h⟩)
  | consumeByte b =>
    by_cases hq : s.st.rdMode = .accumulate ∧ b = Config.term
    · obtain ⟨hm, rfl⟩ := hq
      exact .inr (.inl ⟨rfl, hm, (step_consumeByte h).trans
        (consumeByte_term (s := { s with env := s.env.afterStep }) hm)⟩)
    · exact .inl ⟨b, rfl, hq, step_consumeByte h⟩

/-- The three outcomes of a poll that goes on, and its one fault: each after the recorded pull (R14, R245
to R247). -/
theorem poll_eq (s : State) :
    poll s =
      match s.env.nextInbound with
      | .empty => .next (s.callReceive).2
      | .frame f =>
        if f.valid = false then .fault (.invalidInboundFrame (s.callReceive).2)
        else if s.st.phase = .opened then .next (reportFrame f (s.callReceive).2)
        else .next (s.callReceive).2 := by
  unfold poll State.callReceive
  cases s.env.nextInbound with
  | empty => rfl
  | frame f => cases f.valid <;> simp

/-- What a report appends to the host output, and what it reads (R240, R242, R245). -/
theorem reportFrame_eq (f : Frame) (s : State) :
    reportFrame f s = { s with
      env := if s.st.tsEn then s.env.afterClock else s.env
      output := s.output ++ (encodeFrame f ++
        (if s.st.tsEn then stampText s.env.nextClock else []) ++ [Config.term]) } := by
  unfold reportFrame encodeReport
  cases s.st.tsEn <;> simp [State.emit]

end Sys2Proof.Machine
end

