-- ==== Sys2Proof/Laws/Handlers.lean ====
section
/-! SUPPORT. What a handler and a step can do, said once: a handler refuses for the phase, refuses for
the fields, or goes on with good operands; a dispatch runs a handler or the unknown command; a poll pulls
one answer and may report. Invariants are derived from these and unfold no handler. -/

namespace Sys2Proof.Machine

open Sys2Proof.Config (CtlResult)

@[simp] theorem Event.blankFilter_install (timing : Timing) (code mask : Word) (r : CtlResult) :
    (Event.call (.install timing code mask) r).blankFilter = .call (.install timing 0 0) r := rfl
@[simp] theorem Handed.blankFilter_install (timing : PortTiming) (code mask : Word) :
    (Handed.install timing code mask).blankFilter = .install timing 0 0 := rfl

/-- A command in a phase where it is not legal: the refusal, with a pulse for `O` and `C`. -/
theorem exec_of_illegal {i : Instr} {s : State} (h : legalPhase i.opcode s.st.phase = false) :
    exec i s = .next ((if isLifecycle i.opcode then s.pulse else s).raiseNack .illegalState) := by
  cases i <;> cases hp : s.st.phase <;>
    simp_all [legalPhase, Instr.opcode, exec, execOpenChannel, execCloseChannel, execSendStd,
      execSendExt, execRemoteStd, execRemoteExt, execSetCode, execSetMask, execCustomTiming,
      execPreset, isLifecycle]

/-- A legal command whose field checks failed: the refusal with their kind. -/
theorem exec_of_bad {i : Instr} {s : State} {k : NackKind}
    (h : legalPhase i.opcode s.st.phase = true) (hb : fieldError? i = some k) :
    exec i s = .next (s.raiseNack k) := by
  cases i <;> rename_i a <;> cases a <;> simp [fieldError?, badKind?] at hb <;> subst hb <;>
    cases hp : s.st.phase <;>
    simp_all [legalPhase, Instr.opcode, exec, execOpenChannel, execCloseChannel, execSendStd,
      execSendExt, execRemoteStd, execRemoteExt, execSetCode, execSetMask, execCustomTiming,
      execPreset, execTimestamp, execStatus, execVersion, execSerial]

/-- A legal `O` with good operands: the two calls in order, the second only after an ok. -/
theorem execOpenChannel_of_legal {s : State} (h : s.st.phase = .configured) :
    execOpenChannel (.good ()) s =
      let s1 := (s.callController (.install s.st.timing s.st.filtCode s.st.filtMask)).2
      let s2 := (s1.callController .start).2
      if s.env.nextResult = .fail then refuseWithPulse s1 .controllerFailure
      else if s1.env.nextResult = .fail then refuseWithPulse s2 .controllerFailure
      else .next s2.enterOpen.pulse.ack := by
  simp only [execOpenChannel, h, decide_true, whenPhaseOrPulse_legal, withOperands_good]
  unfold State.callController
  cases h1 : s.env.nextResult with
  | fail => simp
  | ok => cases h2 : s.env.afterResult.nextResult <;> simp [h2]

/-- A legal `C` with good operands: the two calls in order, the second only after an ok. -/
theorem execCloseChannel_of_legal {s : State} (h : s.st.phase = .opened) :
    execCloseChannel (.good ()) s =
      let s1 := (s.callController .stop).2
      let s2 := (s1.callController .uninstall).2
      if s.env.nextResult = .fail then refuseWithPulse s1 .controllerFailure
      else if s1.env.nextResult = .fail then refuseWithPulse s2 .controllerFailure
      else .next s2.enterClosed.pulse.ack := by
  simp only [execCloseChannel, h, decide_true, whenPhaseOrPulse_legal, withOperands_good]
  unfold State.callController
  cases h1 : s.env.nextResult with
  | fail => simp
  | ok => cases h2 : s.env.afterResult.nextResult <;> simp [h2]

/-- The block after a legal, accepted command that calls no controller. -/
def blockAfter (i : Instr) (b : Block) : Block :=
  match i with
  | .timestamp (.good on) => { b with tsEn := on }
  | .setCode (.good w) => { b with filtCode := w }
  | .setMask (.good w) => { b with filtMask := w }
  | .preset (.good k) => { b with timing := .preset k, phase := .configured }
  | .customTiming (.good v) => { b with timing := .custom v.b0 v.b1, phase := .configured }
  | _ => b

/-- A legal, accepted command that is no send, no `O` and no `C`: its reply, its one field, no call. -/
theorem exec_of_plain {i : Instr} {s : State} (h1 : isSend i.opcode = false)
    (h2 : isLifecycle i.opcode = false) (h : legalPhase i.opcode s.st.phase = true)
    (hf : fieldError? i = none) :
    exec i s = .next { s with
      st := blockAfter i s.st, output := s.output ++ successReply i.opcode } := by
  rcases i with a | a | a | a | a | a | a | a | a | a | a | a | a | a <;> rcases a with a | k <;>
    simp [Instr.opcode, isSend, isLifecycle] at h1 h2 <;> simp [fieldError?, badKind?] at hf <;>
    cases hp : s.st.phase <;> simp [legalPhase, Instr.opcode, hp] at h <;>
    simp [exec, execTimestamp, execSetCode, execSetMask, execPreset, execCustomTiming, execStatus,
      execVersion, execSerial, hp, blockAfter, successReply, Instr.opcode, State.ack, State.emit,
      State.setTsEn, State.setFiltCode, State.setFiltMask, State.configure, Config.statusStr,
      Config.versionStr, Config.serialStr]

/-- A send in `Open` with good operands is the one transmit call of its frame. -/
theorem exec_of_send {i : Instr} {s : State} (hi : isSend i.opcode = true)
    (h : s.st.phase = .opened) (hf : fieldError? i = none) :
    ∃ f, i = sendOf f ∧ exec i s = transmitFrame f (successReply i.opcode) s := by
  rcases i with a | a | a | a | a | a | a | a | a | a | a | a | a | a <;> rcases a with a | k <;>
    simp [Instr.opcode, isSend] at hi <;> simp [fieldError?, badKind?] at hf
  · exact ⟨a.toFrame false, rfl, by simp [exec, execSendStd, h, stdReply, successReply, Instr.opcode]⟩
  · exact ⟨a.toFrame true, rfl, by simp [exec, execSendExt, h, extReply, successReply, Instr.opcode]⟩
  · exact ⟨a.toFrame false, rfl, by
      simp [exec, execRemoteStd, h, stdReply, successReply, Instr.opcode]⟩
  · exact ⟨a.toFrame true, rfl, by
      simp [exec, execRemoteExt, h, extReply, successReply, Instr.opcode]⟩

/-- A send that is legal is in `Open`. -/
theorem opened_of_legal_send {i : Instr} {p : Phase} (hi : isSend i.opcode = true)
    (h : legalPhase i.opcode p = true) : p = .opened := by
  cases i <;> simp [Instr.opcode, isSend] at hi <;> simpa [legalPhase, Instr.opcode] using h

/-- A dispatch that goes on is the unknown command or a handler (R140, R147). -/
theorem dispatch_next {line : Line} {s t : State} (h : dispatch line s = .next t) :
    (decode line = none ∧ t = s.pulse.raiseNack .illegalState) ∨
      ∃ i, decode line = some i ∧ exec i s = .next t := by
  unfold dispatch at h
  cases hd : decode line with
  | none => simp only [hd] at h; cases h; exact .inl ⟨rfl, rfl⟩
  | some i => simp only [hd] at h; exact .inr ⟨i, rfl, h⟩

/-- What a poll that goes on leaves and appends (R245, R246). -/
theorem poll_next {s t : State} (h : poll s = .next t) :
    t.st = s.st ∧ t.trace = s.trace ++ [Event.receive s.env.nextInbound] ∧ t.handed = s.handed ∧
      ((t.output = s.output ∧ t.env = s.env.afterInbound) ∨
        ∃ f, f.valid = true ∧ s.st.phase = .opened ∧ s.env.nextInbound = .frame f ∧
          t = reportFrame f (s.callReceive).2) := by
  rw [poll_eq] at h
  cases hi : s.env.nextInbound with
  | empty => simp only [hi] at h; cases h; simp [State.callReceive, hi]
  | frame f =>
    simp only [hi] at h
    split at h
    · cases h
    · rename_i hv
      split at h
      · rename_i hp
        cases h
        refine ⟨?_, ?_, ?_, .inr ⟨f, by simpa using hv, hp, rfl, rfl⟩⟩ <;>
          simp [reportFrame_eq, State.callReceive, hi]
      · cases h; simp [State.callReceive, hi]

/-- A poll that stops: its pulled frame is not valid, and the machine it leaves has the pull and its answer in
the trace and is otherwise as before (R14, R247). -/
theorem poll_fault {s : State} {r : Fault} (h : poll s = .fault r) :
    ∃ f : Frame, s.env.nextInbound = .frame f ∧ f.valid = false ∧
      r = .invalidInboundFrame { s with
        env := s.env.afterInbound, trace := s.trace ++ [.receive (.frame f)] } := by
  rw [poll_eq] at h
  cases hi : s.env.nextInbound with
  | empty => simp only [hi] at h; cases h
  | frame f =>
    simp only [hi] at h
    split at h
    · rename_i hv
      cases h
      exact ⟨f, rfl, hv, by simp [State.callReceive, hi]⟩
    · split at h <;> cases h

/-- A consumed byte that ends no line: the channel state, the environment and the controller port are
left alone, and at most one overflow NACK is raised (R122 to R124). -/
theorem consumeByte_quiet_next {b : Byte} {s t : State}
    (hq : ¬(s.st.rdMode = .accumulate ∧ b = Config.term)) (h : consumeByte b s = .next t) :
    t.st = { s.st with rdBuf := t.st.rdBuf, rdMode := t.st.rdMode } ∧
      t.env = s.env ∧ t.handed = s.handed ∧
      ((t.output = s.output ∧ t.trace = s.trace) ∨
        (t.output = s.output ++ [Config.nackByte] ∧
          t.trace = s.trace ++ [Event.nack .bufferOverflow])) := by
  rw [consumeByte_quiet hq] at h
  cases h
  split
  · split <;> simp
  · split <;> simp

end Sys2Proof.Machine
end

