-- ==== Sys2Proof/Laws/PerInstr.lean ====
section
/-! SUPPORT. Statements about every instruction, proved one constructor at a time. Family `EncodedLine`
(R37, R93): the text of a well-formed command fits the line buffer and holds no terminator. -/

namespace Sys2Proof.Laws

theorem opcode_byte_ne_term (op : Opcode) : (0x0D : Byte) ≠ op.byte := by
  cases op <;> decide

/-- No byte of a hex text is the terminator. -/
theorem term_not_mem_hexText (v n : Nat) : (0x0D : Byte) ∉ hexText v n := by
  intro h
  obtain ⟨d, hd, he⟩ := mem_hexText h
  exact (hexDigitByte_ne_control hd).1 he.symm

theorem term_not_mem_hexBytes (bytes : List Byte) : (0x0D : Byte) ∉ hexBytes bytes := by
  simp only [hexBytes, List.mem_flatMap, not_exists, not_and]
  exact fun b _ => term_not_mem_hexText _ _

theorem decDigitByte_ne_term {d : Nat} (h : d < 10) : (0x0D : Byte) ≠ decDigitByte d := by
  have key : ∀ d : Fin 10, (0x0D : Byte) ≠ decDigitByte d.val := by decide
  exact key ⟨d, h⟩

/-- The header text of a send command: its length, and no terminator in it. -/
theorem headerText_spec (ext : Bool) (id : Nat) {len : Nat} (h : len ≤ 8) :
    (headerText ext id len).length = idDigits ext + 1 ∧ (0x0D : Byte) ∉ headerText ext id len := by
  refine ⟨by simp [headerText], ?_⟩
  simp only [headerText, List.mem_append, List.mem_singleton, not_or]
  exact ⟨term_not_mem_hexText _ _, decDigitByte_ne_term (by omega)⟩

/-- The text of a data send: its length, and no terminator in it. -/
theorem dataText_spec (ext : Bool) {a : DataArgs} (h : a.inRange ext = true) :
    (headerText ext a.id a.len ++ hexBytes a.data).length ≤ idDigits ext + 17 ∧
      (0x0D : Byte) ∉ headerText ext a.id a.len ++ hexBytes a.data := by
  simp only [DataArgs.inRange, Bool.and_eq_true, decide_eq_true_eq, beq_iff_eq, Config.maxLen] at h
  obtain ⟨hl, hm⟩ := headerText_spec ext a.id h.1.2
  refine ⟨by simp [hl]; omega, ?_⟩
  simp only [List.mem_append, not_or]
  exact ⟨hm, term_not_mem_hexBytes _⟩

/-- The text of a remote send: its length, and no terminator in it. -/
theorem remoteText_spec (ext : Bool) {a : RemoteArgs} (h : a.inRange ext = true) :
    (headerText ext a.id a.len).length ≤ idDigits ext + 17 ∧
      (0x0D : Byte) ∉ headerText ext a.id a.len := by
  simp only [RemoteArgs.inRange, Bool.and_eq_true, decide_eq_true_eq, Config.maxLen] at h
  obtain ⟨hl, hm⟩ := headerText_spec ext a.id h.2
  exact ⟨by omega, hm⟩

end Sys2Proof.Laws

namespace Sys2Proof.Laws.EncodedLine

/-- R93: the longest well-formed command is 26 bytes; R37: none holds the terminator. -/
def Statement (i : Instr) : Prop :=
  i.wellFormed = true → (encode i).length ≤ 26 ∧ (0x0D : Byte) ∉ encode i

/-- A command whose operand text is at most 25 bytes without terminator fits. -/
theorem of_operandText {i : Instr}
    (h : i.wellFormed = true → i.operandText.length ≤ 25 ∧ (0x0D : Byte) ∉ i.operandText) :
    Statement i := by
  intro hw
  obtain ⟨hl, hm⟩ := h hw
  refine ⟨by simp [encode]; omega, ?_⟩
  simp only [encode, List.mem_cons, not_or]
  exact ⟨opcode_byte_ne_term i.opcode, hm⟩

theorem openChannel (a : Operands Unit) : Statement (.openChannel a) :=
  of_operandText fun _ => by cases a <;> simp [Instr.operandText, Operands.text]

theorem closeChannel (a : Operands Unit) : Statement (.closeChannel a) :=
  of_operandText fun _ => by cases a <;> simp [Instr.operandText, Operands.text]

theorem sendStd (a : Operands DataArgs) : Statement (.sendStd a) :=
  of_operandText fun h => by
    cases a with
    | good v => exact ⟨(dataText_spec false h).1.trans (by decide), (dataText_spec false h).2⟩
    | bad k => cases h

theorem sendExt (a : Operands DataArgs) : Statement (.sendExt a) :=
  of_operandText fun h => by
    cases a with
    | good v => exact dataText_spec true h
    | bad k => cases h

theorem remoteStd (a : Operands RemoteArgs) : Statement (.remoteStd a) :=
  of_operandText fun h => by
    cases a with
    | good v => exact ⟨(remoteText_spec false h).1.trans (by decide), (remoteText_spec false h).2⟩
    | bad k => cases h

theorem remoteExt (a : Operands RemoteArgs) : Statement (.remoteExt a) :=
  of_operandText fun h => by
    cases a with
    | good v => exact remoteText_spec true h
    | bad k => cases h

theorem timestamp (a : Operands Bool) : Statement (.timestamp a) :=
  of_operandText fun _ => by
    cases a with
    | good n => cases n <;> decide
    | bad k => simp [Instr.operandText, Operands.text]

theorem setCode (a : Operands Word) : Statement (.setCode a) :=
  of_operandText fun _ => by
    cases a with
    | good w => exact ⟨by simp [Instr.operandText, Operands.text], term_not_mem_hexText _ _⟩
    | bad k => simp [Instr.operandText, Operands.text]

theorem setMask (a : Operands Word) : Statement (.setMask a) :=
  of_operandText fun _ => by
    cases a with
    | good w => exact ⟨by simp [Instr.operandText, Operands.text], term_not_mem_hexText _ _⟩
    | bad k => simp [Instr.operandText, Operands.text]

theorem customTiming (a : Operands BtrArgs) : Statement (.customTiming a) :=
  of_operandText fun _ => by
    cases a with
    | good v =>
      refine ⟨by simp [Instr.operandText, Operands.text], ?_⟩
      simp only [Instr.operandText, Operands.text, List.mem_append, not_or]
      exact ⟨term_not_mem_hexText _ _, term_not_mem_hexText _ _⟩
    | bad k => simp [Instr.operandText, Operands.text]

theorem preset (a : Operands (Fin 9)) : Statement (.preset a) :=
  of_operandText fun _ => by
    cases a with
    | good k => exact ⟨by simp [Instr.operandText, Operands.text], by
        simpa [Instr.operandText, Operands.text] using decDigitByte_ne_term (d := k.val) (by omega)⟩
    | bad k => simp [Instr.operandText, Operands.text]

theorem status (a : Operands Unit) : Statement (.status a) :=
  of_operandText fun _ => by cases a <;> simp [Instr.operandText, Operands.text]

theorem version (a : Operands Unit) : Statement (.version a) :=
  of_operandText fun _ => by cases a <;> simp [Instr.operandText, Operands.text]

theorem serial (a : Operands Unit) : Statement (.serial a) :=
  of_operandText fun _ => by cases a <;> simp [Instr.operandText, Operands.text]

end Sys2Proof.Laws.EncodedLine
end

