-- ==== Sys2Proof/Tests/Slice0.lean ====
section
/-! SUPPORT. The author's tests: ill-formed terms that WellFormed refuses, lines written out byte by byte
from the spec's formats, one or two steps per instruction, and for every obligation with hypotheses a
concrete case that meets them. Expected results come from spec/95_test_vectors.md (its ids V-…, L1-…), or
from the rule named. Every environment answer used is scripted, so no free value is involved. -/

namespace Sys2Proof.Tests

open Sys2Proof Sys2Proof.Machine Sys2Proof.Config

/-! ## Small states -/

/-- The reset machine with another phase and timing, and the controller's next answers. -/
def stateIn (p : Phase) (t : Timing) (results : List CtlResult) : State :=
  { State.reset with
    st := { State.reset.st with phase := p, timing := t }
    env := { State.reset.env with results := results } }

/-- `S_cfg` of 95_test_vectors.md section 1. -/
def sCfg (results : List CtlResult) : State := stateIn .configured (.preset 6) results

/-- `S_open` of 95_test_vectors.md section 1. -/
def sOpen (results : List CtlResult) : State := stateIn .opened (.preset 6) results

/-- The machine with its next step given. -/
def withStep (s : State) (i : StepInput) : State :=
  { s with env := { s.env with agenda := [i] } }

/-- The open machine about to poll, with the controller's answer, the clock reading and `ts_en`. -/
def aboutToPoll (s : State) (a : RxAnswer) (ms : Nat) (on : Bool) : State :=
  { s with
    st := { s.st with tsEn := on }
    env := { s.env with agenda := [.poll], inbound := [a], clock := [ms] } }

/-- What a step shows: its output and its trace. -/
def shows : Result → Option (Line × List Event)
  | .next t => some (t.output, t.trace)
  | .fault _ => none
  | .refused _ => none

/-- The block's state after a step. -/
def blockOf : Result → Option Block
  | .next t => some t.st
  | .fault _ => none
  | .refused _ => none

/-- The step that ends the given line. -/
def runLine (s : State) (line : Line) : Result := step (placeLine s line)

/-- A step that shows something went on. -/
theorem next_of_shows {r : Result} {o : Line} {es : List Event} (h : shows r = some (o, es)) :
    ∃ t : State, r = .next t ∧ t.output = o ∧ t.trace = es := by
  cases r with
  | next t => cases h; exact ⟨t, rfl, rfl, rfl⟩
  | fault _ => cases h
  | refused _ => cases h

/-! ## WellFormed refuses -/

theorem test_wellFormed_refuses_bad_operands :
    (Instr.openChannel (.bad .malformedField)).wellFormed = false ∧
    (Instr.closeChannel (.bad .malformedField)).wellFormed = false ∧
    (Instr.sendStd (.bad .lengthMismatch)).wellFormed = false ∧
    (Instr.sendExt (.bad .outOfRange)).wellFormed = false ∧
    (Instr.remoteStd (.bad .outOfRange)).wellFormed = false ∧
    (Instr.remoteExt (.bad .malformedField)).wellFormed = false ∧
    (Instr.timestamp (.bad .outOfRange)).wellFormed = false ∧
    (Instr.setCode (.bad .malformedField)).wellFormed = false ∧
    (Instr.setMask (.bad .malformedField)).wellFormed = false ∧
    (Instr.customTiming (.bad .malformedField)).wellFormed = false ∧
    (Instr.preset (.bad .outOfRange)).wellFormed = false ∧
    (Instr.status (.bad .malformedField)).wellFormed = false ∧
    (Instr.version (.bad .malformedField)).wellFormed = false ∧
    (Instr.serial (.bad .malformedField)).wellFormed = false := by decide

/-- R89: identifiers one above their bounds. -/
theorem test_wellFormed_refuses_wide_id :
    (Instr.sendStd (.good ⟨0x800, 0, []⟩)).wellFormed = false ∧
    (Instr.sendExt (.good ⟨0x20000000, 0, []⟩)).wellFormed = false ∧
    (Instr.remoteStd (.good ⟨0x800, 0⟩)).wellFormed = false ∧
    (Instr.remoteExt (.good ⟨0x20000000, 0⟩)).wellFormed = false := by decide

/-- R90: a length of 9. -/
theorem test_wellFormed_refuses_length_nine :
    (Instr.sendStd (.good ⟨0, 9, [0, 0, 0, 0, 0, 0, 0, 0, 0]⟩)).wellFormed = false ∧
    (Instr.sendExt (.good ⟨0, 9, [0, 0, 0, 0, 0, 0, 0, 0, 0]⟩)).wellFormed = false ∧
    (Instr.remoteStd (.good ⟨0, 9⟩)).wellFormed = false ∧
    (Instr.remoteExt (.good ⟨0, 9⟩)).wellFormed = false := by decide

/-- R87: a data count that is not the declared length. -/
theorem test_wellFormed_refuses_data_count :
    (Instr.sendStd (.good ⟨0x123, 2, [0xDE]⟩)).wellFormed = false ∧
    (Instr.sendExt (.good ⟨0x123, 0, [0xDE]⟩)).wellFormed = false := by decide

/-- R36: the three ways a frame is not valid. -/
theorem test_frame_valid_refuses :
    (Frame.mk 0x800 false 0 (.data [])).valid = false ∧
    (Frame.mk 0x20000000 true 0 .remote).valid = false ∧
    (Frame.mk 0x123 false 9 .remote).valid = false ∧
    (Frame.mk 0x123 false 2 (.data [0xDE])).valid = false ∧
    (Frame.mk 0x7FF false 8 .remote).valid = true := by decide

/-! ## Lines and their decoding -/

/-- V-OC-1, V-OC-6, V-OC-8, V-OC-13: `O`, `O1`, `C`, `Cx`. -/
theorem test_decode_lifecycle :
    decode [0x4F] = some (.openChannel (.good ())) ∧
    decode [0x4F, 0x31] = some (.openChannel (.bad .malformedField)) ∧
    decode [0x43] = some (.closeChannel (.good ())) ∧
    decode [0x43, 0x78] = some (.closeChannel (.bad .malformedField)) := by decide

/-- V-TX-1, V-TX-15: `t7FF0`, `t7ff1ff`. -/
theorem test_decode_sendStd :
    decode [0x74, 0x37, 0x46, 0x46, 0x30] = some (.sendStd (.good ⟨0x7FF, 0, []⟩)) ∧
    decode [0x74, 0x37, 0x66, 0x66, 0x31, 0x66, 0x66] =
      some (.sendStd (.good ⟨0x7FF, 1, [0xFF]⟩)) := by decide

/-- V-TX-2, V-TX-3, V-TX-8, V-TX-10, V-TX-12, V-TX-14, L1-2: `t8000`, `tFFF9`, `t1231a`, `t1231GG`,
`t000`, `t123A`, `t1FFF0`. -/
theorem test_decode_sendStd_refusals :
    decode [0x74, 0x38, 0x30, 0x30, 0x30] = some (.sendStd (.bad .outOfRange)) ∧
    decode [0x74, 0x46, 0x46, 0x46, 0x39] = some (.sendStd (.bad .outOfRange)) ∧
    decode [0x74, 0x31, 0x32, 0x33, 0x31, 0x61] = some (.sendStd (.bad .lengthMismatch)) ∧
    decode [0x74, 0x31, 0x32, 0x33, 0x31, 0x47, 0x47] = some (.sendStd (.bad .malformedField)) ∧
    decode [0x74, 0x30, 0x30, 0x30] = some (.sendStd (.bad .malformedField)) ∧
    decode [0x74, 0x31, 0x32, 0x33, 0x41] = some (.sendStd (.bad .malformedField)) ∧
    decode [0x74, 0x31, 0x46, 0x46, 0x46, 0x30] = some (.sendStd (.bad .malformedField)) := by decide

/-- V-TX-17, V-TX-18, V-TX-23: `T1FFFFFFF2AA55`, `T200000000`, `T00000000x`. -/
theorem test_decode_sendExt :
    decode [0x54, 0x31, 0x46, 0x46, 0x46, 0x46, 0x46, 0x46, 0x46, 0x32, 0x41, 0x41, 0x35, 0x35] =
      some (.sendExt (.good ⟨0x1FFFFFFF, 2, [0xAA, 0x55]⟩)) ∧
    decode [0x54, 0x32, 0x30, 0x30, 0x30, 0x30, 0x30, 0x30, 0x30, 0x30] =
      some (.sendExt (.bad .outOfRange)) ∧
    decode [0x54, 0x30, 0x30, 0x30, 0x30, 0x30, 0x30, 0x30, 0x30, 0x78] =
      some (.sendExt (.bad .malformedField)) := by decide

/-- V-TX-25, V-TX-26, V-TX-28: `r7FF8`, `r1232AABB`, `r1239`. -/
theorem test_decode_remoteStd :
    decode [0x72, 0x37, 0x46, 0x46, 0x38] = some (.remoteStd (.good ⟨0x7FF, 8⟩)) ∧
    decode [0x72, 0x31, 0x32, 0x33, 0x32, 0x41, 0x41, 0x42, 0x42] =
      some (.remoteStd (.bad .malformedField)) ∧
    decode [0x72, 0x31, 0x32, 0x33, 0x39] = some (.remoteStd (.bad .outOfRange)) := by decide

/-- V-TX-33, V-TX-34, V-TX-35: `R1FFFFFFF8`, `R200000000`, `R0000000001`. -/
theorem test_decode_remoteExt :
    decode [0x52, 0x31, 0x46, 0x46, 0x46, 0x46, 0x46, 0x46, 0x46, 0x38] =
      some (.remoteExt (.good ⟨0x1FFFFFFF, 8⟩)) ∧
    decode [0x52, 0x32, 0x30, 0x30, 0x30, 0x30, 0x30, 0x30, 0x30, 0x30] =
      some (.remoteExt (.bad .outOfRange)) ∧
    decode [0x52, 0x30, 0x30, 0x30, 0x30, 0x30, 0x30, 0x30, 0x30, 0x30, 0x31] =
      some (.remoteExt (.bad .malformedField)) := by decide

/-- V-CF-1 to V-CF-6: `Z0`, `Z1`, `Z2`, `Z`, `Z10`, `Zx`. -/
theorem test_decode_timestamp :
    decode [0x5A, 0x30] = some (.timestamp (.good false)) ∧
    decode [0x5A, 0x31] = some (.timestamp (.good true)) ∧
    decode [0x5A, 0x32] = some (.timestamp (.bad .outOfRange)) ∧
    decode [0x5A] = some (.timestamp (.bad .malformedField)) ∧
    decode [0x5A, 0x31, 0x30] = some (.timestamp (.bad .malformedField)) ∧
    decode [0x5A, 0x78] = some (.timestamp (.bad .malformedField)) := by decide

/-- V-CF-8, V-CF-11, V-CF-13, V-CF-14: `Mabcdef01`, `M1234567`, `M1234567G`, `mFFFFFFFE`. -/
theorem test_decode_filter :
    decode [0x4D, 0x61, 0x62, 0x63, 0x64, 0x65, 0x66, 0x30, 0x31] =
      some (.setCode (.good 0xABCDEF01)) ∧
    decode [0x4D, 0x31, 0x32, 0x33, 0x34, 0x35, 0x36, 0x37] =
      some (.setCode (.bad .malformedField)) ∧
    decode [0x4D, 0x31, 0x32, 0x33, 0x34, 0x35, 0x36, 0x37, 0x47] =
      some (.setCode (.bad .malformedField)) ∧
    decode [0x6D, 0x46, 0x46, 0x46, 0x46, 0x46, 0x46, 0x46, 0x45] =
      some (.setMask (.good 0xFFFFFFFE)) := by decide

/-- V-CF-17, V-CF-18, V-CF-20, V-CF-23, V-CF-24: `S6`, `S0`, `S9`, `S10`, `SA`. -/
theorem test_decode_preset :
    decode [0x53, 0x36] = some (.preset (.good 6)) ∧
    decode [0x53, 0x30] = some (.preset (.good 0)) ∧
    decode [0x53, 0x39] = some (.preset (.bad .outOfRange)) ∧
    decode [0x53, 0x31, 0x30] = some (.preset (.bad .malformedField)) ∧
    decode [0x53, 0x41] = some (.preset (.bad .malformedField)) := by decide

/-- V-CF-25, V-CF-27, V-CF-29, V-CF-30: `s031C`, `sffff`, `s03 1C`, `s031`. -/
theorem test_decode_customTiming :
    decode [0x73, 0x30, 0x33, 0x31, 0x43] = some (.customTiming (.good ⟨0x03, 0x1C⟩)) ∧
    decode [0x73, 0x66, 0x66, 0x66, 0x66] = some (.customTiming (.good ⟨0xFF, 0xFF⟩)) ∧
    decode [0x73, 0x30, 0x33, 0x20, 0x31, 0x43] = some (.customTiming (.bad .malformedField)) ∧
    decode [0x73, 0x30, 0x33, 0x31] = some (.customTiming (.bad .malformedField)) := by decide

/-- V-QY-1, V-QY-3, V-QY-4, V-QY-5: `F`, `F0`, `V`, `N`. -/
theorem test_decode_queries :
    decode [0x46] = some (.status (.good ())) ∧
    decode [0x46, 0x30] = some (.status (.bad .malformedField)) ∧
    decode [0x56] = some (.version (.good ())) ∧
    decode [0x4E] = some (.serial (.good ())) := by decide

/-- V-DI-1 to V-DI-7: the empty line, `X`, `o`, `z`, `v`, LF, and a space before `O`. -/
theorem test_decode_unknown :
    decode [] = none ∧ decode [0x58] = none ∧ decode [0x6F] = none ∧ decode [0x7A] = none ∧
    decode [0x76] = none ∧ decode [0x0A] = none ∧ decode [0x20, 0x4F] = none := by decide

/-- The fourteen words of spec/opcode_table.json, in its order; operands of zero bytes are no digits. -/
theorem test_table_words :
    decodeTableWord 8 0x4F = some (.openChannel (.good ())) ∧
    decodeTableWord 8 0x43 = some (.closeChannel (.good ())) ∧
    decodeTableWord 8 0x74 = some (.sendStd (.bad .malformedField)) ∧
    decodeTableWord 8 0x54 = some (.sendExt (.bad .malformedField)) ∧
    decodeTableWord 8 0x72 = some (.remoteStd (.bad .malformedField)) ∧
    decodeTableWord 8 0x52 = some (.remoteExt (.bad .malformedField)) ∧
    decodeTableWord 8 0x5A = some (.timestamp (.bad .malformedField)) ∧
    decodeTableWord 8 0x4D = some (.setCode (.bad .malformedField)) ∧
    decodeTableWord 8 0x6D = some (.setMask (.bad .malformedField)) ∧
    decodeTableWord 8 0x73 = some (.customTiming (.bad .malformedField)) ∧
    decodeTableWord 8 0x53 = some (.preset (.bad .malformedField)) ∧
    decodeTableWord 8 0x46 = some (.status (.good ())) ∧
    decodeTableWord 8 0x56 = some (.version (.good ())) ∧
    decodeTableWord 8 0x4E = some (.serial (.good ())) := by decide

/-- The step after placing the word of `V` at reset replies `V1234` and CR. -/
theorem test_step_withFetchWord :
    shows (step (State.reset.withFetchWord 8 0x56)) =
      some ([0x56, 0x31, 0x32, 0x33, 0x34, 0x0D], []) := by decide

/-! ## One step of each instruction -/

/-- V-OC-1. -/
theorem test_open_ok :
    shows (runLine (sCfg [.ok, .ok]) [0x4F]) = some ([0x0D],
      [.call (.install (.preset 6) 0x00000000 0xFFFFFFFF) .ok, .call .start .ok, .indPulse]) ∧
    (blockOf (runLine (sCfg [.ok, .ok]) [0x4F])).map Block.phase = some .opened := by decide

/-- V-OC-3. -/
theorem test_open_start_fails :
    shows (runLine (sCfg [.ok, .fail]) [0x4F]) = some ([0x07],
      [.call (.install (.preset 6) 0x00000000 0xFFFFFFFF) .ok, .call .start .fail, .indPulse,
        .nack .controllerFailure]) ∧
    (blockOf (runLine (sCfg [.ok, .fail]) [0x4F])).map Block.phase = some .configured := by decide

/-- V-OC-8. -/
theorem test_close_ok :
    shows (runLine (sOpen [.ok, .ok]) [0x43]) =
      some ([0x0D], [.call .stop .ok, .call .uninstall .ok, .indPulse]) ∧
    (blockOf (runLine (sOpen [.ok, .ok]) [0x43])).map (fun b => (b.phase, b.timing)) =
      some (.closed, .none) := by decide

/-- V-OC-11, L1-8: `C` while `Closed`. -/
theorem test_close_while_closed :
    shows (runLine State.reset [0x43]) = some ([0x07], [.indPulse, .nack .illegalState]) := by decide

/-- V-TX-16. -/
theorem test_sendStd_transmit_fails :
    shows (runLine (sOpen [.fail]) [0x74, 0x31, 0x32, 0x33, 0x31, 0x41, 0x42]) = some ([0x07],
      [.call (.transmit ⟨0x123, false, 1, .data [0xAB]⟩ 1000) .fail,
        .nack .controllerFailure]) := by decide

/-- L1-2: `t1FFF0` is malformed in `Open`, and illegal at reset. -/
theorem test_sendStd_phase_before_fields :
    shows (runLine (sOpen []) [0x74, 0x31, 0x46, 0x46, 0x46, 0x30]) =
      some ([0x07], [.nack .malformedField]) ∧
    shows (runLine State.reset [0x74, 0x31, 0x46, 0x46, 0x46, 0x30]) =
      some ([0x07], [.nack .illegalState]) := by decide

/-- V-TX-17. -/
theorem test_sendExt_ok :
    shows (runLine (sOpen [.ok]) [0x54, 0x31, 0x46, 0x46, 0x46, 0x46, 0x46, 0x46, 0x46, 0x32, 0x41,
      0x41, 0x35, 0x35]) = some ([0x5A, 0x0D],
      [.call (.transmit ⟨0x1FFFFFFF, true, 2, .data [0xAA, 0x55]⟩ 1000) .ok]) := by decide

/-- V-TX-25. -/
theorem test_remoteStd_ok :
    shows (runLine (sOpen [.ok]) [0x72, 0x37, 0x46, 0x46, 0x38]) = some ([0x7A, 0x0D],
      [.call (.transmit ⟨0x7FF, false, 8, .remote⟩ 1000) .ok]) := by decide

/-- V-TX-31. -/
theorem test_remoteExt_fails :
    shows (runLine (sOpen [.fail]) [0x52, 0x31, 0x32, 0x33, 0x34, 0x35, 0x36, 0x37, 0x38, 0x30]) =
      some ([0x07], [.call (.transmit ⟨0x12345678, true, 0, .remote⟩ 1000) .fail,
        .nack .controllerFailure]) := by decide

/-- V-CF-1, V-CF-3. -/
theorem test_timestamp :
    (blockOf (runLine State.reset [0x5A, 0x31])).map Block.tsEn = some true ∧
    shows (runLine (sCfg []) [0x5A, 0x32]) = some ([0x07], [.nack .outOfRange]) := by decide

/-- V-CF-8, V-CF-10. -/
theorem test_setCode :
    (blockOf (runLine (sCfg []) [0x4D, 0x61, 0x62, 0x63, 0x64, 0x65, 0x66, 0x30, 0x31])).map
      (fun b => (b.filtCode, b.filtMask)) = some (0xABCDEF01, 0xFFFFFFFF) ∧
    shows (runLine (sOpen []) [0x4D, 0x30, 0x30, 0x30, 0x30, 0x30, 0x30, 0x30, 0x30]) =
      some ([0x07], [.nack .illegalState]) := by decide

/-- V-CF-14. -/
theorem test_setMask :
    (blockOf (runLine (sCfg []) [0x6D, 0x46, 0x46, 0x46, 0x46, 0x46, 0x46, 0x46, 0x45])).map
      (fun b => (b.filtCode, b.filtMask)) = some (0x00000000, 0xFFFFFFFE) := by decide

/-- V-CF-17, V-CF-21: the phase check comes before the range check. -/
theorem test_preset :
    (blockOf (runLine State.reset [0x53, 0x36])).map (fun b => (b.phase, b.timing)) =
      some (.configured, .preset 6) ∧
    shows (runLine (sOpen []) [0x53, 0x39]) = some ([0x07], [.nack .illegalState]) := by decide

/-- V-CF-25, V-CF-28. -/
theorem test_customTiming :
    (blockOf (runLine State.reset [0x73, 0x30, 0x33, 0x31, 0x43])).map
      (fun b => (b.phase, b.timing)) = some (.configured, .custom 0x03 0x1C) ∧
    shows (runLine (sOpen []) [0x73, 0x30, 0x33, 0x31, 0x43]) =
      some ([0x07], [.nack .illegalState]) := by decide

/-- V-QY-2, V-QY-3. -/
theorem test_status :
    shows (runLine (sOpen []) [0x46]) = some ([0x46, 0x30, 0x30, 0x0D], []) ∧
    shows (runLine State.reset [0x46, 0x30]) = some ([0x07], [.nack .malformedField]) := by decide

/-- V-QY-4. -/
theorem test_version :
    shows (runLine (sCfg []) [0x56]) = some ([0x56, 0x31, 0x32, 0x33, 0x34, 0x0D], []) := by decide

/-- V-QY-5, V-QY-6. -/
theorem test_serial :
    shows (runLine (sOpen []) [0x4E]) = some ([0x4E, 0x32, 0x32, 0x30, 0x38, 0x0D], []) ∧
    shows (runLine State.reset [0x4E, 0x31]) = some ([0x07], [.nack .malformedField]) := by decide

/-! ## The framer and the poller -/

/-- V-FR-1: the empty line. -/
theorem test_empty_line :
    shows (runLine State.reset []) = some ([0x07], [.indPulse, .nack .illegalState]) := by decide

/-- V-FR-5, V-FR-7: the 32nd byte, and the CR that ends the discarding. -/
theorem test_overflow_and_recovery :
    shows (step (withStep (State.reset.setRdBuf (List.replicate 31 0x78)) (.consumeByte 0x78))) =
      some ([0x07], [.nack .bufferOverflow]) ∧
    (blockOf (step (withStep (State.reset.setRdBuf (List.replicate 31 0x78))
      (.consumeByte 0x78)))).map (fun b => (b.rdBuf, b.rdMode)) = some ([], .discard) ∧
    blockOf (step (withStep (State.reset.setRdMode .discard) (.consumeByte 0x0D))) =
      some Block.reset := by decide

/-- V-RX-2, V-RX-3 (R244): a report without and with a timestamp. -/
theorem test_poll_reports :
    (shows (step (aboutToPoll (sOpen []) (.frame ⟨0x123, false, 2, .data [0xDE, 0xAD]⟩) 61234
      false))).map Prod.fst = some [0x74, 0x31, 0x32, 0x33, 0x32, 0x44, 0x45, 0x41, 0x44, 0x0D] ∧
    (shows (step (aboutToPoll (sOpen []) (.frame ⟨0x123, false, 2, .data [0xDE, 0xAD]⟩) 61234
      true))).map Prod.fst = some [0x74, 0x31, 0x32, 0x33, 0x32, 0x44, 0x45, 0x41, 0x44, 0x30, 0x34,
        0x44, 0x32, 0x0D] := by decide

/-- V-RX-4, V-RX-5: an extended remote frame, and the timestamp at 120000 and 59999 ms. -/
theorem test_poll_timestamp_wraps :
    (shows (step (aboutToPoll (sOpen []) (.frame ⟨0x1ABCDEF0, true, 4, .remote⟩) 120000
      true))).map Prod.fst = some [0x52, 0x31, 0x41, 0x42, 0x43, 0x44, 0x45, 0x46, 0x30, 0x34, 0x30,
        0x30, 0x30, 0x30, 0x0D] ∧
    (shows (step (aboutToPoll (sOpen []) (.frame ⟨0, false, 0, .data []⟩) 59999 true))).map
      Prod.fst = some [0x74, 0x30, 0x30, 0x30, 0x30, 0x45, 0x41, 0x35, 0x46, 0x0D] := by decide

/-- V-RX-9: dropped while `Closed`. -/
theorem test_poll_drops :
    shows (step (aboutToPoll State.reset (.frame ⟨0x100, false, 1, .data [0x55]⟩) 0 false)) =
      some ([], [.receive (.frame ⟨0x100, false, 1, .data [0x55]⟩)]) := by decide

/-- V-RX-11: an invalid frame faults even while `Closed`, and the run's trace holds the one call. -/
theorem test_poll_faults_after_recorded_pull :
    ∃ t : State, step (aboutToPoll State.reset (.frame ⟨0x800, false, 0, .data []⟩) 0 false) =
        .fault (.invalidInboundFrame t) ∧
      t.trace = [.receive (.frame ⟨0x800, false, 0, .data []⟩)] ∧ t.output = [] :=
  ⟨_, rfl, rfl, rfl⟩


/-! ## Witnesses: a case that meets the hypotheses of each obligation that has some -/

/-- The largest data send: V-TX-20's shape, at the identifier's bound. -/
def fullSend : DataArgs := ⟨0x1FFFFFFF, 8, [0xFF, 0xEE, 0xDD, 0xCC, 0xBB, 0xAA, 0x99, 0x88]⟩

/-- A frame at every bound of R36. -/
def fullFrame : Frame := fullSend.toFrame true

theorem test_witness_HexValIsPositionalSum :
    ([0x31, 0x66, 0x46] : Line).map hexDigit? = [1, 15, 15].map some ∧
    (∃ c ∈ ([0x31, 0x47] : Line), hexDigit? c = none) := by decide

/-- A digit of each range, and a byte on either side of each. -/
theorem test_witness_DigitBytesAndValues :
    [0x30, 0x39, 0x41, 0x46, 0x61, 0x66].map hexDigit? = [0, 9, 10, 15, 10, 15].map some ∧
    [0x2F, 0x3A, 0x40, 0x47, 0x60, 0x67].map hexDigit? = List.replicate 6 none ∧
    [0x30, 0x39].map decDigit? = [some 0, some 9] ∧
    [0x2F, 0x3A, 0x41, 0x61].map decDigit? = List.replicate 4 none := by decide

theorem test_witness_HexTextReadsBack : 0 < 16 ^ 0 ∧ 0xFFF < 16 ^ 3 ∧ 0x1FFFFFFF < 16 ^ 8 := by
  decide

/-- The accepting clauses, at the bounds of each field. -/
theorem test_witness_FieldValuesAreWholeOrRefused_accepted :
    decode [0x74, 0x37, 0x46, 0x46, 0x31, 0x46, 0x46] = some (.sendStd (.good ⟨0x7FF, 1, [0xFF]⟩)) ∧
    decode [0x54, 0x31, 0x46, 0x46, 0x46, 0x46, 0x46, 0x46, 0x46, 0x31, 0x30, 0x30] =
      some (.sendExt (.good ⟨0x1FFFFFFF, 1, [0x00]⟩)) ∧
    decode [0x72, 0x37, 0x46, 0x46, 0x38] = some (.remoteStd (.good ⟨0x7FF, 8⟩)) ∧
    decode [0x52, 0x31, 0x46, 0x46, 0x46, 0x46, 0x46, 0x46, 0x46, 0x30] =
      some (.remoteExt (.good ⟨0x1FFFFFFF, 0⟩)) ∧
    decode [0x4D, 0x46, 0x46, 0x46, 0x46, 0x46, 0x46, 0x46, 0x46] =
      some (.setCode (.good 0xFFFFFFFF)) ∧
    decode [0x6D, 0x30, 0x30, 0x30, 0x30, 0x30, 0x30, 0x30, 0x30] = some (.setMask (.good 0)) ∧
    decode [0x73, 0x46, 0x46, 0x30, 0x30] = some (.customTiming (.good ⟨0xFF, 0x00⟩)) ∧
    ([0x46, 0x46, 0x46, 0x46, 0x46, 0x46, 0x46, 0x46] : Line).length = 8 ∧
    hexVal? [0x46, 0x46, 0x46, 0x46, 0x46, 0x46, 0x46, 0x46] = some 0xFFFFFFFF ∧
    hexVal? [0x46, 0x46] = some 0xFF ∧ hexVal? [0x30, 0x30] = some 0 := by decide

/-- The other clauses: an identifier at its bound with eight data bytes' digits, and one above it. -/
theorem test_witness_FieldValuesAreWholeOrRefused_bounds :
    hexVal? [0x37, 0x46, 0x46] = some 0x7FF ∧ 0x7FF ≤ 0x7FF ∧ decDigit? 0x38 = some 8 ∧
    (List.replicate 16 (0x46 : Byte)).length = 2 * 8 ∧
    (∀ c ∈ List.replicate 16 (0x46 : Byte), hexDigit? c ≠ none) ∧
    hexVal? [0x31, 0x46, 0x46, 0x46, 0x46, 0x46, 0x46, 0x46] = some 0x1FFFFFFF ∧
    hexVal? [0x38, 0x30, 0x30] = some 0x800 ∧ 0x7FF < 0x800 ∧ decDigit? 0x30 ≠ none ∧
    hexVal? [0x32, 0x30, 0x30, 0x30, 0x30, 0x30, 0x30, 0x30] = some 0x20000000 ∧
    0x1FFFFFFF < 0x20000000 := by decide

theorem test_witness_PayloadKeepsFrameOrder :
    decode [0x74, 0x31, 0x32, 0x33, 0x32, 0x44, 0x45, 0x41, 0x44] =
      some (.sendStd (.good ⟨0x123, 2, [0xDE, 0xAD]⟩)) ∧
    decode [0x54, 0x31, 0x46, 0x46, 0x46, 0x46, 0x46, 0x46, 0x46, 0x32, 0x41, 0x41, 0x35, 0x35] =
      some (.sendExt (.good ⟨0x1FFFFFFF, 2, [0xAA, 0x55]⟩)) ∧
    1 < ([0xDE, 0xAD] : List Byte).length := by decide

/-- A good identifier, and each clause: no digit, the digit 9, a wrong count, a bad data digit, a byte
after a remote header. -/
theorem test_witness_SendLineRefusalKinds :
    ([0x37, 0x46, 0x46] : Line).length = idDigits false ∧ hexVal? [0x37, 0x46, 0x46] = some 0x7FF ∧
    0x7FF ≤ idMax false ∧ decDigit? 0x41 = none ∧ decDigit? 0x39 = some 9 ∧
    decDigit? 0x38 = some 8 ∧ ([] : Line).length ≠ 2 * 8 ∧
    decDigit? 0x31 = some 1 ∧ ([0x47, 0x47] : Line).length = 2 * 1 ∧
    (∃ c ∈ ([0x47, 0x47] : Line), hexDigit? c = none) ∧ ([0x47, 0x47] : Line) ≠ [] := by decide

/-- One byte short and one byte long. -/
theorem test_witness_WrongLengthIsMalformed :
    ([0x4D, 0x30, 0x30, 0x30, 0x30, 0x30, 0x30, 0x30] : Line).length <
      Opcode.setCode.format.fixedPart ∧
    ([0x74, 0x30, 0x30, 0x30] : Line).length < Opcode.sendStd.format.fixedPart ∧
    Opcode.openChannel.format.fixedPart < ([0x4F, 0x31] : Line).length ∧
    isSend .openChannel = false := by decide

/-- Each clause: a bad hex digit in 3, 8, 8 and 4 digits, a bad decimal digit, and the digits 0, 1, 2, 8
and 9. -/
theorem test_witness_DigitFieldsRefuseByKind :
    (∃ c ∈ ([0x31, 0x32, 0x47] : Line), hexDigit? c = none) ∧
    (∃ c ∈ ([0x30, 0x30, 0x30, 0x30, 0x30, 0x30, 0x30, 0x47] : Line), hexDigit? c = none) ∧
    (∃ c ∈ ([0x30, 0x67, 0x31, 0x43] : Line), hexDigit? c = none) ∧
    decDigit? 0x41 = none ∧ decDigit? 0x30 = some 0 ∧ decDigit? 0x31 = some 1 ∧
    decDigit? 0x32 = some 2 ∧ decDigit? 0x38 = some 8 ∧ decDigit? 0x39 = some 9 := by decide

theorem test_witness_AcceptedLineIsWellFormed :
    decode [0x53, 0x38] = some (.preset (.good 8)) ∧
    fieldError? (.preset (.good 8)) = none := by decide

theorem test_witness_DecodeEncodeAgree :
    (Instr.sendExt (.good fullSend)).wellFormed = true ∧
    (Instr.customTiming (.good ⟨0xFF, 0x00⟩)).wellFormed = true := by decide

theorem test_witness_EncodeDecodeAgreeUpperCase :
    decode [0x74, 0x37, 0x46, 0x46, 0x31, 0x41, 0x46] =
      some (.sendStd (.good ⟨0x7FF, 1, [0xAF]⟩)) ∧
    (Instr.sendStd (.good ⟨0x7FF, 1, [0xAF]⟩)).wellFormed = true ∧
    upperHex [0x74, 0x37, 0x46, 0x46, 0x31, 0x41, 0x46] = true := by decide

theorem test_witness_FrameCodecInverse :
    fullFrame.valid = true ∧
    decodeFrame [0x72, 0x37, 0x46, 0x46, 0x38] = some (.good ⟨0x7FF, false, 8, .remote⟩) ∧
    upperHex [0x72, 0x37, 0x46, 0x46, 0x38] = true := by decide

theorem test_witness_ReportIsSendText : fullFrame.valid = true := by decide

theorem test_witness_StepRunsDecodedInstruction :
    let s := placeLine State.reset [0x5A, 0x31]
    s.env.nextStep = .consumeByte 0x0D ∧ s.st.rdMode = .accumulate ∧
      decode s.st.rdBuf = some (.timestamp (.good true)) := by decide

theorem test_witness_UnknownLineIsNackedWithPulse :
    let s := placeLine State.reset []
    s.env.nextStep = .consumeByte 0x0D ∧ s.st.rdMode = .accumulate ∧ decode s.st.rdBuf = none := by
  decide

theorem test_witness_OverflowNacksOnce :
    let s := withStep (State.reset.setRdBuf (List.replicate 31 0x78)) (.consumeByte 0x00)
    s.env.nextStep = .consumeByte 0x00 ∧ s.st.rdMode = .accumulate ∧ (0x00 : Byte) ≠ 0x0D ∧
      s.st.rdBuf.length = 31 := by decide

/-- Both kinds of byte while discarding. -/
theorem test_witness_DiscardUntilTerminator :
    (withStep (State.reset.setRdMode .discard) (.consumeByte 0x78)).env.nextStep =
      .consumeByte 0x78 ∧
    (withStep (State.reset.setRdMode .discard) (.consumeByte 0x0D)).env.nextStep =
      .consumeByte 0x0D ∧
    (State.reset.setRdMode .discard).st.rdMode = .discard := by decide

/-- The last byte that fits. -/
theorem test_witness_OrdinaryByteIsAppended :
    let s := withStep (State.reset.setRdBuf (List.replicate 30 0x78)) (.consumeByte 0x0A)
    s.env.nextStep = .consumeByte 0x0A ∧ s.st.rdMode = .accumulate ∧ (0x0A : Byte) ≠ 0x0D ∧
      s.st.rdBuf.length < 31 := by decide

/-- The reset machine with a script of host bytes. -/
def fedWith (bytes : Line) : State :=
  { State.reset with env := { State.reset.env with agenda := bytes.map .consumeByte } }

/-- The empty line and the longest line. -/
theorem test_witness_HostLineIsDispatchedWhole :
    (fedWith ([0x0D])).env.agenda = ([0x0D]).map .consumeByte ++ [] ∧
    (fedWith (List.replicate 31 0x78 ++ [0x0D])).env.agenda =
      (List.replicate 31 0x78 ++ [0x0D]).map .consumeByte ++ [] ∧
    0x0D ∉ List.replicate 31 (0x78 : Byte) ∧ (List.replicate 31 (0x78 : Byte)).length ≤ 31 ∧
    State.reset.st.rdMode = .accumulate ∧ State.reset.st.rdBuf = [] := by decide

/-- The longest command. -/
theorem test_witness_HostTextRunsCommand :
    (Instr.sendExt (.good fullSend)).wellFormed = true ∧
    (fedWith (encode (.sendExt (.good fullSend)) ++ [0x0D])).env.agenda =
      (encode (.sendExt (.good fullSend)) ++ [0x0D]).map .consumeByte ++ [] ∧
    (fedWith []).st.rdMode = .accumulate ∧ (fedWith []).st.rdBuf = [] := by decide

/-- L1-3: exactly 32 bytes, and 33. -/
theorem test_witness_OverlongLineNacksExactlyOnce :
    0x0D ∉ List.replicate 33 (0x41 : Byte) ∧ 32 ≤ (List.replicate 32 (0x41 : Byte)).length ∧
    32 ≤ (List.replicate 33 (0x41 : Byte)).length ∧
    (fedWith (List.replicate 33 0x41)).env.agenda =
      (List.replicate 33 0x41).map .consumeByte ++ [] ∧
    (fedWith []).st.rdMode = .accumulate ∧ (fedWith []).st.rdBuf = [] := by decide

/-- An illegal command, and a legal one with a failed field check. -/
theorem test_witness_PhaseGatesCommands :
    legalPhase (Instr.setCode (.good 0)).opcode State.reset.st.phase = false ∧
    legalPhase (Instr.preset (.bad .outOfRange)).opcode State.reset.st.phase = true ∧
    fieldError? (.preset (.bad .outOfRange)) = some .outOfRange := by decide

theorem test_witness_FailedFieldChecksActOnNothing :
    fieldError? (.openChannel (.bad .malformedField)) ≠ none := by decide

/-- A refusal before any call, and one after a call. -/
theorem test_witness_RefusedCommandHasNoOtherEffect :
    shows (exec (.openChannel (.good ())) State.reset) =
      some ([0x07], State.reset.trace ++ [Event.indPulse, .nack .illegalState]) ∧
    shows (exec (.closeChannel (.good ())) (sOpen [.fail])) = some ([0x07],
      (sOpen [.fail]).trace ++ [Event.call .stop .fail, .indPulse, .nack .controllerFailure]) ∧
    fieldError? (.closeChannel (.good ())) ≠ some .controllerFailure := by decide

/-- A failed first call, a failed second call, and a failed transmit. -/
theorem test_witness_ControllerFailureFollowsFailedCall :
    shows (exec (.openChannel (.good ())) (sCfg [.fail])) = some ([0x07], (sCfg [.fail]).trace ++
      [Event.call (.install (.preset 6) 0 0xFFFFFFFF) .fail, .indPulse, .nack .controllerFailure]) ∧
    shows (exec (.closeChannel (.good ())) (sOpen [.ok, .fail])) = some ([0x07],
      (sOpen [.ok, .fail]).trace ++ [Event.call .stop .ok, .call .uninstall .fail, .indPulse,
        .nack .controllerFailure]) ∧
    shows (exec (.remoteExt (.good ⟨0, 8⟩)) (sOpen [.fail])) = some ([0x07],
      (sOpen [.fail]).trace ++ [Event.call (.transmit ⟨0, true, 8, .remote⟩ 1000) .fail,
        .nack .controllerFailure]) ∧
    fieldError? (.remoteExt (.good ⟨0, 8⟩)) ≠ some .controllerFailure := by decide

/-- One dispatched line for each kind that a dispatch can raise. -/
theorem test_witness_KindsAreRaisedOnlyWhereListed :
    shows (dispatch [0x46, 0x30] State.reset) = some ([0x07], [Event.nack .malformedField]) ∧
    shows (dispatch [0x53, 0x39] State.reset) = some ([0x07], [Event.nack .outOfRange]) ∧
    shows (dispatch [0x74, 0x31, 0x32, 0x33, 0x31] (sOpen [])) =
      some ([0x07], [Event.nack .lengthMismatch]) ∧
    shows (dispatch [0x4D] State.reset) = some ([0x07], [Event.nack .illegalState]) ∧
    shows (dispatch [0x43] (sOpen [.fail])) =
      some ([0x07], [Event.call .stop .fail, .indPulse, .nack .controllerFailure]) := by decide

/-- A line with a pulse, and an `O` with a bad length, which has none. -/
theorem test_witness_PulseInExactlyTheFiveCases :
    shows (dispatch [] State.reset) =
      some ([0x07], State.reset.trace ++ [Event.indPulse, .nack .illegalState]) ∧
    shows (dispatch [0x4F, 0x31] (sCfg [])) =
      some ([0x07], (sCfg []).trace ++ [Event.nack .malformedField]) := by decide

/-- An `O` that makes both calls, and a query that makes none. -/
theorem test_witness_CommandsCallOnlyTheirOperations :
    shows (exec (.openChannel (.good ())) (sCfg [.ok, .ok])) = some ([0x0D],
      (sCfg [.ok, .ok]).trace ++
        [Event.call (.install (.preset 6) 0 0xFFFFFFFF) .ok, .call .start .ok, .indPulse]) ∧
    shows (exec (.status (.good ())) State.reset) =
      some ([0x46, 0x30, 0x30, 0x0D], State.reset.trace ++ []) := by decide

/-- Each of the three answers to `O`. -/
theorem test_witness_OpenFollowsInstallAndStart :
    (sCfg []).st.phase = .configured ∧
    ((sCfg [.ok, .ok]).env.nextResult = .ok ∧
      (sCfg [.ok, .ok]).env.afterResult.nextResult = .ok) ∧
    (sCfg [.fail]).env.nextResult = .fail ∧
    ((sCfg [.ok, .fail]).env.nextResult = .ok ∧
      (sCfg [.ok, .fail]).env.afterResult.nextResult = .fail) := by decide

/-- Each of the three answers to `C`. -/
theorem test_witness_CloseFollowsStopAndUninstall :
    (sOpen []).st.phase = .opened ∧
    ((sOpen [.ok, .ok]).env.nextResult = .ok ∧
      (sOpen [.ok, .ok]).env.afterResult.nextResult = .ok) ∧
    (sOpen [.fail]).env.nextResult = .fail ∧
    ((sOpen [.ok, .fail]).env.nextResult = .ok ∧
      (sOpen [.ok, .fail]).env.afterResult.nextResult = .fail) := by decide

theorem test_witness_DataSendTransmitsOnce : (sOpen [.ok]).st.phase = .opened := by decide

theorem test_witness_RemoteSendTransmitsOnce : (sOpen [.fail]).st.phase = .opened := by decide

theorem test_witness_FilterCommandsWriteOneWord : (sCfg []).st.phase = .configured := by decide

/-- Both phases in which the timing may be set. -/
theorem test_witness_TimingCommandsConfigure :
    State.reset.st.phase ≠ .opened ∧ (sCfg []).st.phase ≠ .opened := by decide

theorem test_witness_InstallReceivesDecodedTiming :
    let s := stateIn .configured (.custom 0x03 0x1C) [.ok, .ok]
    s.st.phase = .configured ∧ s.st.timing = .custom 0x03 0x1C ∧
      ∃ t : State, exec (.openChannel (.good ())) s = .next t :=
  ⟨by decide, by decide, _, rfl⟩

/-- A send while not open, and a send that transmits. -/
theorem test_witness_TransmitOnlyWhileOpen :
    (shows (exec (.sendStd (.good ⟨0x123, 0, []⟩)) (sCfg [])) =
      some ([0x07], (sCfg []).trace ++ [Event.nack .illegalState]) ∧
      isSend .sendStd = true ∧ (sCfg []).st.phase ≠ .opened) ∧
    shows (exec (.sendStd (.good ⟨0x123, 0, []⟩)) (sOpen [.ok])) = some ([0x7A, 0x0D],
      (sOpen [.ok]).trace ++ [Event.call (.transmit ⟨0x123, false, 0, .data []⟩ 1000) .ok]) := by decide

theorem test_witness_EachCommandWritesOnlyItsFields :
    (∃ t : State, exec (.closeChannel (.good ())) (sOpen [.ok, .ok]) = .next t) ∧
    (∃ t : State, exec (.timestamp (.good true)) State.reset = .next t) ∧
    (∃ t : State, exec (.serial (.good ())) State.reset = .next t) :=
  ⟨⟨_, rfl⟩, ⟨_, rfl⟩, ⟨_, rfl⟩⟩

/-- V-RX-9 and V-RX-10: a valid frame in each phase that drops it. -/
theorem test_witness_PollDropsFrameUnlessOpen :
    (let s := aboutToPoll State.reset (.frame ⟨0x100, false, 1, .data [0x55]⟩) 0 false
    s.env.nextStep = .poll ∧
      s.env.afterStep.nextInbound = .frame ⟨0x100, false, 1, .data [0x55]⟩ ∧
      (Frame.mk 0x100 false 1 (.data [0x55])).valid = true ∧ s.st.phase ≠ .opened) ∧
    (let s := aboutToPoll (sCfg []) (.frame ⟨0x7FF, false, 0, .data []⟩) 0 true
    s.env.nextStep = .poll ∧ s.env.afterStep.nextInbound = .frame ⟨0x7FF, false, 0, .data []⟩ ∧
      (Frame.mk 0x7FF false 0 (.data [])).valid = true ∧ s.st.phase ≠ .opened) ∧
    ∃ t : State, step (aboutToPoll State.reset .empty 0 false) = .next t :=
  ⟨by decide, by decide, _, rfl⟩

/-- V-RX-1, V-RX-8, V-RX-9, V-RX-12: the four answers to a pull. -/
theorem test_witness_PollIsOnePull :
    (aboutToPoll (sOpen []) .empty 0 false).env.nextStep = .poll ∧
    (aboutToPoll (sOpen []) .empty 0 false).env.afterStep.nextInbound = .empty ∧
    (aboutToPoll (sOpen []) (.frame fullFrame) 60000 true).env.afterStep.nextInbound =
      .frame fullFrame ∧
    fullFrame.valid = true ∧ (sOpen []).st.phase = .opened ∧ (sCfg []).st.phase ≠ .opened ∧
    (Frame.mk 0x123 false 9 .remote).valid = false := by decide

/-- An empty pull, and a report with the flag off and on. -/
theorem test_witness_PollReportsFrameWhileOpen :
    (aboutToPoll (sOpen []) .empty 0 false).env.afterStep.nextInbound = .empty ∧
    (aboutToPoll (sOpen []) (.frame fullFrame) 0 false).env.nextStep = .poll ∧
    (aboutToPoll (sOpen []) (.frame fullFrame) 0 false).env.afterStep.nextInbound =
      .frame fullFrame ∧
    fullFrame.valid = true ∧ (sOpen []).st.phase = .opened ∧
    (aboutToPoll (sOpen []) (.frame fullFrame) 0 false).st.tsEn = false ∧
    (aboutToPoll (sOpen []) (.frame fullFrame) 0 true).st.tsEn = true := by decide

/-- V-RX-8: the longest report is 31 bytes. -/
theorem test_witness_ReportIsAtMost31Bytes :
    fullFrame.valid = true ∧ (encodeFrame fullFrame ++ stampText 60000 ++ [0x0D]).length = 31 := by
  decide

/-- A safe byte, a safe poll, and a poll of an invalid frame. -/
theorem test_witness_StepStopsOnlyOnInvalidFrame :
    safeStep (withStep State.reset (.consumeByte 0x0D)) = true ∧
    safeStep (aboutToPoll (sOpen []) (.frame fullFrame) 0 true) = true ∧
    safeStep (aboutToPoll State.reset (.frame ⟨0x800, false, 0, .data []⟩) 0 false) = false := by
  decide

theorem test_witness_StepKeepsInvariant :
    (placeLine (sOpen [.ok, .ok]) [0x43]).st.inv = true ∧
    ∃ t : State, step (placeLine (sOpen [.ok, .ok]) [0x43]) = .next t :=
  ⟨by decide, _, rfl⟩

/-- The three changes of phase, and a step that stays open. -/
theorem test_witness_PhaseChangesOnlyByItsCommands :
    (∃ t : State, runLine State.reset [0x53, 0x36] = .next t ∧ t.st.phase ≠ State.reset.st.phase) ∧
    (∃ t : State, runLine (sCfg [.ok, .ok]) [0x4F] = .next t ∧ t.st.phase ≠ (sCfg []).st.phase) ∧
    (∃ t : State, runLine (sOpen [.ok, .ok]) [0x43] = .next t ∧ t.st.phase ≠ (sOpen []).st.phase) ∧
    (∃ t : State, runLine (sOpen []) [0x53, 0x36] = .next t ∧ t.st.phase = .opened) :=
  ⟨⟨_, rfl, by decide⟩, ⟨_, rfl, by decide⟩, ⟨_, rfl, by decide⟩, ⟨_, rfl, rfl⟩⟩

/-- A step that emits nothing, a reply, and a report. -/
theorem test_witness_EveryStepEmitsAtMostOneItem :
    (∃ t : State, step (withStep State.reset (.consumeByte 0x56)) = .next t) ∧
    (∃ t : State, runLine State.reset [0x56] = .next t) ∧
    (∃ t : State, step (aboutToPoll (sOpen []) (.frame fullFrame) 60000 true) = .next t ∧
      (aboutToPoll (sOpen []) (.frame fullFrame) 60000 true).env.nextStep = .poll) :=
  ⟨⟨_, rfl⟩, ⟨_, rfl⟩, ⟨_, rfl, by decide⟩⟩

/-- An item of each kind. -/
theorem test_witness_ItemsAreSelfDelimiting :
    (∀ item ∈ fixedItems, IsItem item) ∧
    fixedItems.map (fun item => item.head?.bind itemKind?) =
      [ItemKind.ack, .nack, .sendOk, .sendOk, .queryReply, .queryReply, .queryReply].map some ∧
    IsItem (encodeFrame fullFrame ++ stampText 60000 ++ [term]) :=
  ⟨fun _ h => .inl h, by decide, .inr ⟨fullFrame, by decide, .inr ⟨60000, rfl⟩⟩⟩

theorem test_witness_PortsOnlyGrow : ∃ t : State, runLine (sOpen [.ok, .ok]) [0x43] = .next t := ⟨_, rfl⟩

theorem test_witness_TransmittedFramesAreValid :
    shows (runLine (sOpen [.ok]) [0x72, 0x37, 0x46, 0x46, 0x38]) = some ([0x7A, 0x0D],
      (placeLine (sOpen [.ok]) [0x72, 0x37, 0x46, 0x46, 0x38]).trace ++
        [Event.call (.transmit ⟨0x7FF, false, 8, .remote⟩ 1000) .ok]) := by decide

/-- A step that passes the filter to install, and one that writes a filter word. -/
theorem test_witness_FilterNeverAffectsHostOutput :
    (∃ t : State, runLine (sCfg [.ok, .ok]) [0x4F] = .next t) ∧
    (∃ t : State, runLine (sCfg [])
      [0x4D, 0x31, 0x32, 0x33, 0x34, 0x35, 0x36, 0x37, 0x38] = .next t) :=
  ⟨⟨_, rfl⟩, ⟨_, rfl⟩⟩

/-- A step that runs `Z`, and one that does not. -/
theorem test_witness_TimestampFlagOnlyReadByPoll_bytes :
    ((placeLine State.reset [0x5A, 0x31]).env.nextStep = .consumeByte 0x0D ∧
      (placeLine State.reset [0x5A, 0x31]).st.rdMode = .accumulate ∧
      decode (placeLine State.reset [0x5A, 0x31]).st.rdBuf = some (.timestamp (.good true)) ∧
      ∃ t : State, runLine State.reset [0x5A, 0x31] = .next t) ∧
    ((placeLine State.reset [0x56]).env.nextStep = .consumeByte 0x0D ∧
      (∀ on, decode (placeLine State.reset [0x56]).st.rdBuf ≠ some (.timestamp (.good on))) ∧
      ∃ t : State, runLine State.reset [0x56] = .next t) :=
  ⟨⟨by decide, by decide, by decide, _, rfl⟩, by decide, by decide, _, rfl⟩

/-- A further byte with `Z1` in the buffer, and polls that report a frame and that report none. -/
theorem test_witness_TimestampFlagOnlyReadByPoll_others :
    (∃ t : State, step { placeLine State.reset [0x5A, 0x31] with
      env := { State.reset.env with agenda := [.consumeByte 0x31] } } = .next t ∧
      t.st.tsEn = false ∧ t.st.rdBuf = [0x5A, 0x31, 0x31]) ∧
    (∃ t : State, step (aboutToPoll (sOpen []) (.frame fullFrame) 0 true) = .next t ∧
      t.st.tsEn = true) ∧
    (sOpen []).st.phase = .opened ∧ State.reset.st.phase ≠ .opened ∧
    (aboutToPoll State.reset (.frame fullFrame) 0 true).env.nextStep = .poll ∧
    (∃ t : State, step (aboutToPoll State.reset (.frame fullFrame) 0 true) = .next t) :=
  ⟨⟨_, rfl, rfl, rfl⟩, ⟨_, rfl, rfl⟩, by decide, by decide, by decide, _, rfl⟩

end Sys2Proof.Tests
end

section
/-! PROOFS, family 20_memory.md. The payload's order (R61): the j-th value that `hexBytes?` reads is the
value of the j-th two-digit group, and `hexBytes?` reads back what `hexBytes` writes. Decode and encode
both follow, each from the fact that the payload's digits stand from position `idDigits ext + 2` on. -/

namespace Sys2Proof

/-! ## Hex text reads back -/

/-- `HexVal` reads back `Hex(v, n)` (R86). -/
theorem hexVal?_hexText {v n : Nat} (h : v < 16 ^ n) : hexVal? (hexText v n) = some v := by
  induction n generalizing v with
  | zero =>
    obtain rfl : v = 0 := by simpa using h
    rfl
  | succ n ih =>
    have hq : v / 16 < 16 ^ n := Nat.div_lt_of_lt_mul (by rwa [pow_succ'] at h)
    have hd : hexDigit? (hexDigitByte (v % 16)) = some (v % 16) :=
      hexDigit?_hexDigitByte (Nat.mod_lt v (by decide))
    simp [hexText, hexVal?_append, ih hq, hd, Nat.div_add_mod']

/-! ## Two-digit groups -/

/-- What `hexBytes?` accepts after its first two digits, and the byte these two become. -/
theorem hexBytes?_cons_cons_eq_some {a b : Byte} {rest : Line} {bytes : List Byte} :
    hexBytes? (a :: b :: rest) = some bytes ↔
      ∃ v vs, hexVal? [a, b] = some v ∧ hexBytes? rest = some vs ∧ bytes = BitVec.ofNat 8 v :: vs := by
  rw [hexBytes?]
  cases hexVal? [a, b] <;> cases hexBytes? rest <;> simp [eq_comm]

/-- Bytes written as two-digit groups are read back in the same order. -/
theorem hexBytes?_hexBytes (bytes : List Byte) : hexBytes? (hexBytes bytes) = some bytes := by
  induction bytes with
  | nil => rfl
  | cons b bytes ih =>
    have hv : hexVal? (hexText b.toNat 2) = some b.toNat := hexVal?_hexText b.isLt
    exact hexBytes?_cons_cons_eq_some.mpr ⟨b.toNat, bytes, hv, ih, by simp⟩

/-- A field at `i + k` is the field at `k` of the line from `i` on. -/
theorem field_add (line : Line) (i k n : Nat) : field line (i + k) n = field (line.drop i) k n := by
  simp [field]

/-- The j-th byte that `hexBytes?` reads is the value of the j-th two-digit group (R61). -/
theorem hexVal?_field_of_hexBytes? {digits : Line} {bytes : List Byte}
    (h : hexBytes? digits = some bytes) (j : Nat) (hj : j < bytes.length) :
    hexVal? (field digits (2 * j) 2) = some bytes[j].toNat := by
  match digits with
  | [] =>
    obtain rfl : [] = bytes := Option.some.inj h
    simp at hj
  | [_] => cases h
  | a :: b :: rest =>
    obtain ⟨v, vs, hv, hvs, rfl⟩ := hexBytes?_cons_cons_eq_some.mp h
    cases j with
    | zero =>
      have hlt : v < 256 := hexVal?_lt hv
      simpa [field, Nat.mod_eq_of_lt hlt] using hv
    | succ j =>
      simpa [field, Nat.mul_succ] using
        hexVal?_field_of_hexBytes? hvs j (by simpa using hj)

/-! ## Where the payload's digits stand -/

/-- The payload of an accepted data send, byte by byte. -/
theorem decodeData_payload {ext : Bool} {line : Line} {a : DataArgs}
    (h : decodeData ext line = .good a) (j : Nat) (hj : j < a.data.length) :
    hexVal? (field line (idDigits ext + 2 + 2 * j) 2) = some a.data[j].toNat := by
  obtain ⟨_, _, hdata⟩ := decodeData_eq_good.mp h
  rw [field_add]
  exact hexVal?_field_of_hexBytes? hdata j hj

end Sys2Proof

namespace Sys2Proof.Machine

/-- A data frame's report ends with its bytes as two-digit groups, after tag, identifier and length. -/
theorem encodeFrame_drop_header (id : Nat) (ext : Bool) (len : Nat) (bytes : List Byte) :
    (encodeFrame ⟨id, ext, len, .data bytes⟩).drop (idDigits ext + 2) = hexBytes bytes := by
  have hl : (hexText id (idDigits ext) ++ hexText len 1).length = idDigits ext + 1 := by simp
  exact List.drop_left' hl

/-- The payload of a data frame's report, byte by byte. -/
theorem encodeFrame_payload (id : Nat) (ext : Bool) (len : Nat) (bytes : List Byte) (j : Nat)
    (hj : j < bytes.length) :
    hexVal? (field (encodeFrame ⟨id, ext, len, .data bytes⟩) (idDigits ext + 2 + 2 * j) 2) =
      some bytes[j].toNat := by
  rw [field_add, encodeFrame_drop_header]
  exact hexVal?_field_of_hexBytes? (hexBytes?_hexBytes bytes) j hj

end Sys2Proof.Machine

namespace Sys2Proof.Proofs

open Sys2Proof Sys2Proof.Machine

/-- Settles O6: on both sides the payload's digits follow the header, and `hexBytes?` reads them group by
group in frame order. -/
theorem payloadKeepsFrameOrder : Obligations.PayloadKeepsFrameOrder := by
  unfold Obligations.PayloadKeepsFrameOrder
  refine ⟨fun line a h => ?_, fun line a h => ?_, fun id len bytes j hj => ⟨?_, ?_⟩⟩
  · obtain ⟨_, _, hdec⟩ := decode_eq_some.mp h
    exact decodeData_payload (Instr.sendStd.inj hdec)
  · obtain ⟨_, _, hdec⟩ := decode_eq_some.mp h
    exact decodeData_payload (Instr.sendExt.inj hdec)
  · exact encodeFrame_payload id false len bytes j hj
  · exact encodeFrame_payload id true len bytes j hj

end Sys2Proof.Proofs
end

section
/-! PROOFS, family 30_encoding.md. `HexVal` as a positional sum (R84), by induction over the digits from
the most significant one; and the refusal of a line whose field checks failed (R88), which is the refusal
for the phase or the refusal for the fields. -/

namespace Sys2Proof

/-! ## HexVal as a positional sum -/

/-- The positional sum of R84: the digit at `i` of `n` counts `16^(n-1-i)`. -/
def positionalSum (ds : List Nat) : Nat :=
  ∑ i : Fin ds.length, ds[i] * 16 ^ (ds.length - 1 - i)

/-- The first digit has the highest weight; the others keep theirs. -/
theorem positionalSum_cons (d : Nat) (ds : List Nat) :
    positionalSum (d :: ds) = d * 16 ^ ds.length + positionalSum ds := by
  simp [positionalSum, Fin.sum_univ_succ, Nat.sub_sub, Nat.add_comm]

/-- Digits read after the value `acc` shift it by their number of places and add their own sum. -/
theorem hexValFrom_eq_positionalSum {s : Line} {ds : List Nat} (h : s.map hexDigit? = ds.map some)
    (acc : Nat) : hexValFrom acc s = some (acc * 16 ^ ds.length + positionalSum ds) := by
  induction ds generalizing s acc with
  | nil =>
    obtain rfl : s = [] := by simpa using h
    simp [hexValFrom, positionalSum]
  | cons d ds ih =>
    obtain ⟨c, cs, rfl, hc, hcs⟩ := List.map_eq_cons_iff.mp h
    simp only [hexValFrom, hc, ih hcs, positionalSum_cons, List.length_cons]
    congr 1
    ring

/-- A byte that is no hex digit leaves `HexVal` undefined, whatever was read before it. -/
theorem hexValFrom_eq_none {s : Line} {c : Byte} (hc : c ∈ s) (hn : hexDigit? c = none) (acc : Nat) :
    hexValFrom acc s = none := by
  induction s generalizing acc with
  | nil => cases hc
  | cons b s ih =>
    rw [hexValFrom]
    cases hb : hexDigit? b with
    | none => rfl
    | some d =>
      have hcb : c ≠ b := by rintro rfl; simp [hn] at hb
      exact ih (List.mem_of_ne_of_mem hcb hc) _

end Sys2Proof

namespace Sys2Proof.Proofs

open Sys2Proof Sys2Proof.Machine

/-- Settles O2: the sum by induction over the digits, its bound by `hexVal?_lt`. -/
theorem hexValIsPositionalSum : Obligations.HexValIsPositionalSum := by
  unfold Obligations.HexValIsPositionalSum
  refine ⟨fun s ds h => ?_, fun s ⟨c, hc, hn⟩ => hexValFrom_eq_none hc hn 0⟩
  have hv : hexVal? s = some (positionalSum ds) := by
    simpa [hexVal?] using hexValFrom_eq_positionalSum h 0
  exact ⟨hv, hexVal?_lt hv⟩

/-- Settles O25: the line is refused for its phase, with the pulse that `O` and `C` raise there, or in a
legal phase for its fields. -/
theorem failedFieldChecksActOnNothing : Obligations.FailedFieldChecksActOnNothing := by
  unfold Obligations.FailedFieldChecksActOnNothing
  intro i s hf
  obtain ⟨k, hk⟩ := Option.ne_none_iff_exists'.mp hf
  cases hp : legalPhase i.opcode s.st.phase with
  | true =>
    refine ⟨k, [], ?_, .inl rfl⟩
    simp [exec_of_bad hp hk, State.raiseNack, State.emit, State.record]
  | false =>
    refine ⟨.illegalState, if isLifecycle i.opcode then [.indPulse] else [], ?_, ?_⟩
    · rw [exec_of_illegal hp]
      cases isLifecycle i.opcode <;> simp [State.raiseNack, State.emit, State.record, State.pulse]
    · cases isLifecycle i.opcode <;> simp

end Sys2Proof.Proofs
end

section
/-! PROOFS, family 41_dispatch.md. What a command can do to the trace, said once: it is refused before any
controller call, refused after one or more of them, or answered with no NACK. A refused command then has
no other effect (R144): the calls write neither `st` nor the output, and the refusal adds only its events
and the NACK byte. -/

namespace Sys2Proof.Machine

/-! ## Controller calls and a refusal, one after the other -/

/-- `s1` is `s` after the controller calls `calls`, apart from the environment and the values handed over. -/
structure AfterCalls (s : State) (calls : List Event) (s1 : State) : Prop where
  st_eq : s1.st = s.st
  output_eq : s1.output = s.output
  trace_eq : s1.trace = s.trace ++ calls
  isCall : ∀ e ∈ calls, e.isCall = true

theorem AfterCalls.refl (s : State) : AfterCalls s [] s :=
  ⟨rfl, rfl, by simp, by simp⟩

theorem AfterCalls.call {s s1 : State} {calls : List Event} (h : AfterCalls s calls s1) (op : Call) :
    AfterCalls s (calls ++ [.call op s1.env.nextResult]) (s1.callController op).2 where
  st_eq := h.st_eq
  output_eq := h.output_eq
  trace_eq := by simp [h.trace_eq]
  isCall := by simpa [or_imp, forall_and, Event.isCall] using h.isCall

/-- `t` is `s` refused with the kind `k`, with a pulse before the NACK or none. -/
def RefusedWith (s : State) (k : NackKind) (t : State) : Prop :=
  t = s.raiseNack k ∨ t = s.pulse.raiseNack k

theorem refusedWith_of_refuseWithPulse {s t : State} {k : NackKind}
    (h : refuseWithPulse s k = .next t) : RefusedWith s k t :=
  .inr (Host.Outcome.next.inj h).symm

/-- The events of a refusal: its NACK, after a pulse or none. -/
theorem RefusedWith.trace_eq {s t : State} {k : NackKind} (h : RefusedWith s k t) :
    t.trace = s.trace ++ [.nack k] ∨ t.trace = s.trace ++ [.indPulse, .nack k] := by
  obtain rfl | rfl := h <;> simp

/-- What a refusal leaves: `st` and the values handed over; the host gets the NACK byte. -/
theorem RefusedWith.frame {s t : State} {k : NackKind} (h : RefusedWith s k t) :
    t.st = s.st ∧ t.output = s.output ++ [Config.nackByte] ∧ t.handed = s.handed := by
  obtain rfl | rfl := h <;> simp

/-- The events of a refusal that follows controller calls. -/
theorem RefusedWith.events_eq {s s1 t : State} {calls es : List Event} {k : NackKind}
    (h : RefusedWith s1 k t) (hc : AfterCalls s calls s1) (hes : t.trace = s.trace ++ es) :
    es = calls ++ [.nack k] ∨ es = calls ++ [.indPulse, .nack k] := by
  simpa [hes, hc.trace_eq] using h.trace_eq

/-- The only NACK of a refusal that follows controller calls is its own. -/
theorem RefusedWith.kind_eq {s s1 t : State} {calls es : List Event} {k kind : NackKind}
    (h : RefusedWith s1 k t) (hc : AfterCalls s calls s1) (hes : t.trace = s.trace ++ es)
    (hk : .nack kind ∈ es) : kind = k := by
  have hn : Event.nack kind ∉ calls := fun hm => Bool.false_ne_true (hc.isCall _ hm)
  obtain rfl | rfl := h.events_eq hc hes <;> simpa [hn] using hk

/-! ## How a command completes -/

/-- The three ways in which the command `i` leads from `s` to `t` (R141, R144, R261). -/
inductive Completes (i : Instr) (s t : State) : Prop where
  /-- Refused for the phase or for the fields, before any controller call. -/
  | refused (k : NackKind) (hk : k = .illegalState ∨ fieldError? i = some k) (ht : RefusedWith s k t)
  /-- Refused for a failed controller call. -/
  | failed (calls : List Event) (s1 : State) (hne : calls ≠ []) (hc : AfterCalls s calls s1)
      (ht : RefusedWith s1 .controllerFailure t)
  /-- Answered without a NACK. -/
  | answered (es : List Event) (hes : t.trace = s.trace ++ es) (hn : ∀ k, .nack k ∉ es)

/-- The one `transmit` call of a send is answered, or it fails and the command is refused (R193). -/
theorem completes_of_transmitFrame {i : Instr} {f : Frame} {reply : Line} {s t : State}
    (h : transmitFrame f reply s = .next t) : Completes i s t := by
  have hc := (AfterCalls.refl s).call (.transmit f Config.txTimeoutMs)
  unfold transmitFrame at h
  rw [State.callController_eq] at h
  cases hr : s.env.nextResult with
  | fail =>
    simp only [hr] at h
    cases h
    exact .failed _ _ (by simp) hc (.inl rfl)
  | ok =>
    simp only [hr] at h
    cases h
    exact .answered _ (State.callController_trace ..) (by simp)

/-- The two calls of `O` and `C`: a failed one refuses the command, and after both the command is answered
with a pulse (R160, R164). -/
theorem completes_of_twoCalls {i : Instr} {op1 op2 : Call} {s u t : State}
    (hu : u.trace = ((s.callController op1).2.callController op2).2.trace ++ [.indPulse])
    (h : (if s.env.nextResult = .fail then
        refuseWithPulse (s.callController op1).2 .controllerFailure
      else if (s.callController op1).2.env.nextResult = .fail then
        refuseWithPulse ((s.callController op1).2.callController op2).2 .controllerFailure
      else .next u) = .next t) : Completes i s t := by
  have hc1 := (AfterCalls.refl s).call op1
  have hc2 := hc1.call op2
  split at h
  · exact .failed _ _ (by simp) hc1 (refusedWith_of_refuseWithPulse h)
  · split at h
    · exact .failed _ _ (by simp) hc2 (refusedWith_of_refuseWithPulse h)
    · cases h
      exact .answered _ (by rw [hu, hc2.trace_eq, List.append_assoc]) (by simp)

/-- A legal `O` or `C` with good operands. -/
theorem completes_of_lifecycle {i : Instr} {s t : State} (hi : isLifecycle i.opcode = true)
    (hp : legalPhase i.opcode s.st.phase = true) (hf : fieldError? i = none)
    (h : exec i s = .next t) : Completes i s t := by
  cases i with
  | openChannel a =>
    cases a with
    | bad k => cases hf
    | good v =>
      have he := execOpenChannel_of_legal (of_decide_eq_true hp)
      exact completes_of_twoCalls rfl (he.symm.trans h)
  | closeChannel a =>
    cases a with
    | bad k => cases hf
    | good v =>
      have he := execCloseChannel_of_legal (of_decide_eq_true hp)
      exact completes_of_twoCalls rfl (he.symm.trans h)
  | _ => cases hi

/-- Every command completes in one of the three ways. -/
theorem completes_of_exec {i : Instr} {s t : State} (h : exec i s = .next t) : Completes i s t := by
  cases hp : legalPhase i.opcode s.st.phase with
  | false =>
    rw [exec_of_illegal hp] at h
    cases h
    refine .refused .illegalState (.inl rfl) ?_
    cases isLifecycle i.opcode
    · exact .inl rfl
    · exact .inr rfl
  | true =>
    cases hf : fieldError? i with
    | some k =>
      rw [exec_of_bad hp hf] at h
      cases h
      exact .refused k (.inr hf) (.inl rfl)
    | none =>
      cases hs : isSend i.opcode with
      | true =>
        obtain ⟨f, -, he⟩ := exec_of_send hs (opened_of_legal_send hs hp) hf
        exact completes_of_transmitFrame (he.symm.trans h)
      | false =>
        cases hl : isLifecycle i.opcode with
        | true => exact completes_of_lifecycle hl hp hf h
        | false =>
          rw [exec_of_plain hs hl hp hf] at h
          cases h
          exact .answered [] (by simp) (by simp)

end Sys2Proof.Machine

namespace Sys2Proof.Proofs

open Sys2Proof Sys2Proof.Machine

/-- Settles O26: a NACK comes from a refusal before any controller call or for a failed one; neither the
calls nor the refusal write `st`. -/
theorem refusedCommandHasNoOtherEffect : Obligations.RefusedCommandHasNoOtherEffect := by
  unfold Obligations.RefusedCommandHasNoOtherEffect
  intro i s t es kind h hes hk
  cases completes_of_exec h with
  | refused k hkind ht =>
    have hc := AfterCalls.refl s
    obtain rfl := ht.kind_eq hc hes hk
    obtain ⟨hst, hout, hhanded⟩ := ht.frame
    have hev := ht.events_eq hc hes
    refine ⟨hst, hout, fun _ => ⟨?_, hhanded, hev⟩, ?_⟩
    · obtain rfl | rfl := hev <;> simp [Event.isCall]
    · rintro rfl hne
      simp [hne] at hkind
  | failed calls s1 hne hc ht =>
    obtain rfl := ht.kind_eq hc hes hk
    obtain ⟨hst, hout, -⟩ := ht.frame
    refine ⟨hst.trans hc.st_eq, ?_, fun hkind => absurd rfl hkind, fun _ _ => ?_⟩
    · rw [hout, hc.output_eq]
    · exact ⟨calls, hne, hc.isCall, ht.events_eq hc hes⟩
  | answered es' hes' hn =>
    obtain rfl := List.append_cancel_left (hes.symm.trans hes')
    exact absurd hk (hn kind)

end Sys2Proof.Proofs
end

section
/-! PROOFS, family 46_receive.md. A poll that drops its frame (R246) is the pull alone. -/

namespace Sys2Proof.Machine

/-- A valid frame polled while the channel is not open: the machine after the recorded pull (R246). -/
theorem poll_of_dropped {s : State} {f : Frame} (hi : s.env.nextInbound = .frame f)
    (hv : f.valid = true) (hp : s.st.phase ≠ .opened) :
    poll s = .next { s with
      env := s.env.afterInbound, trace := s.trace ++ [.receive (.frame f)] } := by
  rw [poll_eq]
  simp [hi, hv, hp, State.callReceive]

end Sys2Proof.Machine

namespace Sys2Proof.Proofs

open Sys2Proof Sys2Proof.Machine

/-- Settles O43: a poll step is `poll` after the schedule has moved on; a dropped frame leaves the pull
alone, and every poll that goes on appends its one pull (`poll_next`). -/
theorem pollDropsFrameUnlessOpen : Obligations.PollDropsFrameUnlessOpen := by
  unfold Obligations.PollDropsFrameUnlessOpen
  refine ⟨fun s f hs hi hv hp => ?_, fun s t hs ht => ?_⟩
  · exact (step_poll hs).trans
      (poll_of_dropped (s := { s with env := s.env.afterStep }) hi hv hp)
  · rw [step_poll hs] at ht
    obtain ⟨-, htrace, -⟩ := poll_next ht
    exact htrace

end Sys2Proof.Proofs
end

section
/-! PROOFS, family other: the codec. Reading inverts writing, and writing inverts reading on
upper-case text, first for digit strings, then for the header and the data of a send line, then for
every command. -/

namespace Sys2Proof

/-! ## Upper-case digit strings -/

theorem upperHex_append (s r : Line) :
    Machine.upperHex (s ++ r) = true ↔ Machine.upperHex s = true ∧ Machine.upperHex r = true := by
  simp [Machine.upperHex]

/-- A byte of upper-case text is no lower-case hex letter. -/
theorem not_lower_of_upperHex {s : Line} (h : Machine.upperHex s = true) {c : Byte} (hc : c ∈ s) :
    ¬(0x61 ≤ c.toNat ∧ c.toNat ≤ 0x66) := by
  simpa [imp_iff_not_or] using List.all_eq_true.mp h c hc

/-- Upper-case text stays so under `field` and `drop`, which take parts of it. -/
theorem upperHex_of_subset {s r : Line} (h : Machine.upperHex s = true) (hr : r ⊆ s) :
    Machine.upperHex r = true :=
  List.all_eq_true.mpr fun _ hc => List.all_eq_true.mp h _ (hr hc)

theorem field_subset (line : Line) (i n : Nat) : field line i n ⊆ line :=
  List.Subset.trans (List.take_subset _ _) (List.drop_subset _ _)

/-- `Hex` writes back the upper-case digits that `HexVal` read. -/
theorem hexText_of_hexVal? {s : Line} {v : Nat} (h : hexVal? s = some v)
    (hu : Machine.upperHex s = true) : hexText v s.length = s := by
  induction s using List.reverseRecOn generalizing v with
  | nil => rfl
  | append_singleton s c ih =>
    rw [hexVal?_append] at h
    simp only [Option.bind_eq_some_iff, Option.map_eq_some_iff] at h
    obtain ⟨w, hw, d, hd, rfl⟩ := h
    have hlt := hexDigit?_lt hd
    have hc : hexDigitByte d = c :=
      hexDigitByte_of_hexDigit? hd (not_lower_of_upperHex hu (by simp))
    have hdiv : (w * 16 + d) / 16 = w := by omega
    have hmod : (w * 16 + d) % 16 = d := by omega
    simp [hexText, hdiv, hmod, hc, ih hw ((upperHex_append _ _).mp hu).1]

/-- A field read in full is written back. -/
theorem hexText_of_hexVal?_field {line : Line} {i n v : Nat} (hlen : i + n ≤ line.length)
    (h : hexVal? (field line i n) = some v) (hu : Machine.upperHex line = true) :
    hexText v n = field line i n := by
  have hl : (field line i n).length = n := by simp [field]; omega
  have := hexText_of_hexVal? h (upperHex_of_subset hu (field_subset _ _ _))
  rwa [hl] at this

/-- Two-digit groups in upper case are written back from the bytes they stand for. -/
theorem hexBytes_of_hexBytes? {l : Line} {bytes : List Byte} (h : hexBytes? l = some bytes)
    (hu : Machine.upperHex l = true) : hexBytes bytes = l := by
  match l with
  | [] =>
    obtain rfl : [] = bytes := Option.some.inj h
    rfl
  | [_] => cases h
  | a :: b :: rest =>
    obtain ⟨v, vs, hv, hvs, rfl⟩ := hexBytes?_cons_cons_eq_some.mp h
    obtain ⟨hab, hrest⟩ := (upperHex_append [a, b] rest).mp hu
    have hlt : v < 256 := hexVal?_lt hv
    have hgroup : hexText v 2 = [a, b] := hexText_of_hexVal? hv hab
    have ih : (vs.flatMap fun b => hexText b.toNat 2) = rest := hexBytes_of_hexBytes? hvs hrest
    simp [hexBytes, Nat.mod_eq_of_lt hlt, hgroup, ih]

/-- The groups that `hexBytes?` reads take two digits each. -/
theorem length_of_hexBytes? {l : Line} {bytes : List Byte} (h : hexBytes? l = some bytes) :
    l.length = 2 * bytes.length := by
  match l with
  | [] =>
    obtain rfl : [] = bytes := Option.some.inj h
    rfl
  | [_] => cases h
  | a :: b :: rest =>
    obtain ⟨v, vs, -, hvs, rfl⟩ := hexBytes?_cons_cons_eq_some.mp h
    simp [length_of_hexBytes? hvs]
    omega

/-! ## The fields of a line that is written out -/

/-- The field after the opcode. -/
theorem field_one_append (c : Byte) {s : Line} {n : Nat} (h : s.length = n) (r : Line) :
    field (c :: (s ++ r)) 1 n = s := by
  simp [field, ← h]

/-- The field after the opcode, when nothing follows it. -/
theorem field_one (c : Byte) {s : Line} {n : Nat} (h : s.length = n) : field (c :: s) 1 n = s := by
  simp [field, ← h]

theorem digitAt_one (b c : Byte) : digitAt [b, c] 1 = orMalformed (decDigit? c) := rfl

/-- A header that is written out is read back, whatever follows it. -/
theorem decodeHeader_headerText (ext : Bool) (c : Byte) {id len : Nat} (hid : id ≤ idMax ext)
    (hlen : len ≤ 8) (tail : Line) :
    decodeHeader ext (c :: (headerText ext id len ++ tail)) = .good ⟨id, len⟩ := by
  have hid16 : id < 16 ^ idDigits ext := by
    cases ext
    · exact Nat.lt_of_le_of_lt hid (by decide)
    · exact Nat.lt_of_le_of_lt hid (by decide)
  have hdig : decDigit? (decDigitByte len) = some len := decDigit?_decDigitByte (by omega)
  refine decodeHeader_eq_good.mpr ⟨by simp [headerText], ?_, ?_, hid, hlen⟩
  · rw [headerText, List.append_assoc, field_one_append c (hexText_length _ _)]
    exact hexVal?_hexText hid16
  · exact digitAt_eq_good.mpr ⟨decDigitByte len, by simp [headerText], hdig⟩

/-- What follows the header of a line that is written out. -/
theorem drop_headerText (ext : Bool) (c : Byte) (id len : Nat) (tail : Line) :
    (c :: (headerText ext id len ++ tail)).drop (idDigits ext + 2) = tail := by
  have hl : (headerText ext id len).length = idDigits ext + 1 := by simp [headerText]
  exact List.drop_left' hl

/-- An accepted upper-case header is written back. -/
theorem headerText_of_decodeHeader {ext : Bool} {c : Byte} {rest : Line} {h : RemoteArgs}
    (hd : decodeHeader ext (c :: rest) = .good h) (hu : Machine.upperHex (c :: rest) = true) :
    headerText ext h.id h.len ++ (c :: rest).drop (idDigits ext + 2) = rest := by
  obtain ⟨hlen, hid, hdig, -, -⟩ := decodeHeader_eq_good.mp hd
  obtain ⟨d, hhead, hval⟩ := digitAt_eq_good.mp hdig
  have hidText := hexText_of_hexVal?_field (by omega) hid hu
  have hdrop : rest.drop (idDigits ext) = d :: rest.drop (idDigits ext + 1) := by
    obtain ⟨tl, htl⟩ := List.head?_eq_some_iff.mp hhead
    have htl' : rest.drop (idDigits ext) = d :: tl := htl
    rw [← List.drop_drop, htl', List.drop_one, List.tail_cons]
  calc headerText ext h.id h.len ++ (c :: rest).drop (idDigits ext + 2)
      = field (c :: rest) 1 (idDigits ext) ++ d :: rest.drop (idDigits ext + 1) := by
        simp [headerText, hidText, decDigitByte_of_decDigit? hval]
    _ = rest.take (idDigits ext) ++ rest.drop (idDigits ext) := by rw [hdrop]; rfl
    _ = rest := List.take_append_drop _ _

/-! ## The operands of each format, read after writing -/

theorem digitAt_decDigitByte (c : Byte) {n : Nat} (h : n < 10) :
    digitAt [c, decDigitByte n] 1 = .good n := by
  rw [digitAt_one, decDigit?_decDigitByte h]
  rfl

theorem decodeTimestamp_text (c : Byte) (on : Bool) :
    decodeTimestamp [c, decDigitByte on.toNat] = .good on :=
  decodeTimestamp_eq_good.mpr ⟨rfl, digitAt_decDigitByte c (by cases on <;> decide)⟩

theorem decodePreset_text (c : Byte) (k : Fin 9) :
    decodePreset [c, decDigitByte k.val] = .good k :=
  decodePreset_eq_good.mpr ⟨rfl, digitAt_decDigitByte c (by omega)⟩

theorem decodeWord32_text (c : Byte) (w : Word) :
    decodeWord32 (c :: hexText w.toNat 8) = .good w := by
  refine decodeWord32_eq_good.mpr ⟨by simp, ?_⟩
  rw [field_one c (hexText_length _ _)]
  exact hexVal?_hexText (n := 8) w.isLt

theorem decodeBtr_text (c : Byte) (v : BtrArgs) :
    decodeBtr (c :: (hexText v.b0.toNat 2 ++ hexText v.b1.toNat 2)) = .good v := by
  refine decodeBtr_eq_good.mpr ⟨by simp, ?_, ?_⟩
  · rw [field_one_append c (hexText_length _ _)]
    exact hexVal?_hexText (n := 2) v.b0.isLt
  · exact hexVal?_hexText (n := 2) v.b1.isLt

theorem decodeData_text {ext : Bool} (c : Byte) {a : DataArgs} (h : a.inRange ext = true) :
    decodeData ext (c :: (headerText ext a.id a.len ++ hexBytes a.data)) = .good a := by
  simp only [DataArgs.inRange, Bool.and_eq_true, decide_eq_true_eq, beq_iff_eq] at h
  obtain ⟨⟨hid, hlen⟩, hcount⟩ := h
  refine decodeData_eq_good.mpr ⟨decodeHeader_headerText ext c hid hlen _, ?_, ?_⟩
  · simp [headerText, hcount]
    omega
  · rw [drop_headerText]
    exact hexBytes?_hexBytes a.data

theorem decodeRemote_text {ext : Bool} (c : Byte) {a : RemoteArgs} (h : a.inRange ext = true) :
    decodeRemote ext (c :: headerText ext a.id a.len) = .good a := by
  simp only [RemoteArgs.inRange, Bool.and_eq_true, decide_eq_true_eq] at h
  obtain ⟨hid, hlen⟩ := h
  refine decodeRemote_eq_good.mpr ⟨?_, by simp [headerText]⟩
  simpa using decodeHeader_headerText ext c hid hlen []

/-! ## The operands of each format, written after reading -/

theorem text_of_decodeBare {c : Byte} {rest : Line} {u : Unit}
    (h : decodeBare (c :: rest) = .good u) : [] = rest :=
  (List.length_eq_zero_iff.mp (Nat.succ.inj (decodeBare_eq_good.mp h))).symm

theorem digitText_of_digitAt {c : Byte} {rest : Line} {n : Nat} (hl : (c :: rest).length = 2)
    (h : digitAt (c :: rest) 1 = .good n) : [decDigitByte n] = rest := by
  obtain ⟨d, rfl⟩ := List.length_eq_one_iff.mp (Nat.succ.inj hl)
  rw [digitAt_one, orMalformed_eq_good] at h
  rw [decDigitByte_of_decDigit? h]

theorem text_of_decodeWord32 {c : Byte} {rest : Line} {w : Word}
    (h : decodeWord32 (c :: rest) = .good w) (hu : Machine.upperHex (c :: rest) = true) :
    hexText w.toNat 8 = rest := by
  obtain ⟨hl, hv⟩ := decodeWord32_eq_good.mp h
  rw [hexText_of_hexVal?_field (by omega) hv hu]
  exact field_one c (Nat.succ.inj hl)

theorem text_of_decodeBtr {c : Byte} {rest : Line} {v : BtrArgs}
    (h : decodeBtr (c :: rest) = .good v) (hu : Machine.upperHex (c :: rest) = true) :
    hexText v.b0.toNat 2 ++ hexText v.b1.toNat 2 = rest := by
  obtain ⟨hl, h0, h1⟩ := decodeBtr_eq_good.mp h
  rw [hexText_of_hexVal?_field (by omega) h0 hu, hexText_of_hexVal?_field (by omega) h1 hu]
  have hrest : (rest.drop 2).length = 2 := by simp_all
  calc rest.take 2 ++ (rest.drop 2).take 2
      = rest.take 2 ++ rest.drop 2 := by rw [List.take_of_length_le hrest.le]
    _ = rest := List.take_append_drop _ _

theorem text_of_decodeData {ext : Bool} {c : Byte} {rest : Line} {a : DataArgs}
    (h : decodeData ext (c :: rest) = .good a) (hu : Machine.upperHex (c :: rest) = true) :
    headerText ext a.id a.len ++ hexBytes a.data = rest := by
  obtain ⟨hheader, -, hdata⟩ := decodeData_eq_good.mp h
  rw [hexBytes_of_hexBytes? hdata (upperHex_of_subset hu (List.drop_subset _ _))]
  exact headerText_of_decodeHeader hheader hu

theorem text_of_decodeRemote {ext : Bool} {c : Byte} {rest : Line} {a : RemoteArgs}
    (h : decodeRemote ext (c :: rest) = .good a) (hu : Machine.upperHex (c :: rest) = true) :
    headerText ext a.id a.len = rest := by
  obtain ⟨hheader, hl⟩ := decodeRemote_eq_good.mp h
  simpa [List.drop_of_length_le hl.le] using headerText_of_decodeHeader hheader hu

/-! ## Accepted operands are in range -/

theorem inRange_of_decodeData {ext : Bool} {line : Line} {a : DataArgs}
    (h : decodeData ext line = .good a) : a.inRange ext = true := by
  obtain ⟨hheader, hcount, hdata⟩ := decodeData_eq_good.mp h
  obtain ⟨-, -, -, hid, hlen⟩ := decodeHeader_eq_good.mp hheader
  have hl := length_of_hexBytes? hdata
  rw [List.length_drop] at hl
  simp only [DataArgs.inRange, Bool.and_eq_true, decide_eq_true_eq, beq_iff_eq]
  exact ⟨⟨hid, hlen⟩, by omega⟩

theorem inRange_of_decodeRemote {ext : Bool} {line : Line} {a : RemoteArgs}
    (h : decodeRemote ext line = .good a) : a.inRange ext = true := by
  obtain ⟨hheader, -⟩ := decodeRemote_eq_good.mp h
  obtain ⟨-, -, -, hid, hlen⟩ := decodeHeader_eq_good.mp hheader
  simp only [RemoteArgs.inRange, Bool.and_eq_true, decide_eq_true_eq]
  exact ⟨hid, hlen⟩

theorem Operands.map_eq_good {α β : Type} {g : α → β} {a : Operands α} {w : β} :
    a.map g = .good w ↔ ∃ v, a = .good v ∧ g v = w := by
  simp [Operands.map]

/-! ## Commands -/

/-- The decoder runs the field checks of the opcode a line begins with. -/
theorem decode_opcode (op : Opcode) (rest : Line) :
    decode (op.byte :: rest) = some (decodeAs op (op.byte :: rest)) :=
  decode_eq_some.mpr ⟨rest, by rw [decodeAs_opcode], by rw [decodeAs_opcode]⟩

/-- Decoding the text of a well-formed command (R81, R94). -/
theorem decode_encode {i : Instr} (h : i.wellFormed = true) : decode (encode i) = some i := by
  refine decode_eq_some.mpr ⟨i.operandText, rfl, ?_⟩
  rcases i with a | a | a | a | a | a | a | a | a | a | a | a | a | a <;> rcases a with a | k <;>
    simp only [Instr.wellFormed, Operands.check, Bool.false_eq_true] at h
  case openChannel | closeChannel | status | version | serial => rfl
  case sendStd | sendExt => exact congrArg _ (decodeData_text _ h)
  case remoteStd | remoteExt => exact congrArg _ (decodeRemote_text _ h)
  case timestamp => exact congrArg _ (decodeTimestamp_text _ a)
  case setCode | setMask => exact congrArg _ (decodeWord32_text _ a)
  case customTiming => exact congrArg _ (decodeBtr_text _ a)
  case preset => exact congrArg _ (decodePreset_text _ a)

/-- Writing the command of an accepted upper-case line (R249 b, for every command). -/
theorem encode_of_decode {line : Line} {i : Instr} (h : decode line = some i)
    (hw : i.wellFormed = true) (hu : Machine.upperHex line = true) : encode i = line := by
  obtain ⟨rest, rfl, hi⟩ := decode_eq_some.mp h
  refine congrArg (i.opcode.byte :: ·) ?_
  rcases i with a | a | a | a | a | a | a | a | a | a | a | a | a | a <;> rcases a with a | k <;>
    simp only [Instr.wellFormed, Operands.check, Bool.false_eq_true] at hw <;>
    injection hi with hi
  case openChannel | closeChannel | status | version | serial => exact text_of_decodeBare hi
  case sendStd | sendExt => exact text_of_decodeData hi hu
  case remoteStd | remoteExt => exact text_of_decodeRemote hi hu
  case timestamp =>
    obtain ⟨hl, hd⟩ := decodeTimestamp_eq_good.mp hi
    exact digitText_of_digitAt hl hd
  case setCode | setMask => exact text_of_decodeWord32 hi hu
  case customTiming => exact text_of_decodeBtr hi hu
  case preset =>
    obtain ⟨hl, hd⟩ := decodePreset_eq_good.mp hi
    exact digitText_of_digitAt hl hd

/-- The decoder bounds every operand it accepts (R88 to R90). -/
theorem wellFormed_of_decode {line : Line} {i : Instr} (h : decode line = some i)
    (hf : Machine.fieldError? i = none) : i.wellFormed = true := by
  obtain ⟨rest, -, hi⟩ := decode_eq_some.mp h
  rcases i with a | a | a | a | a | a | a | a | a | a | a | a | a | a <;> rcases a with a | k <;>
    simp only [Machine.fieldError?, Machine.badKind?, reduceCtorEq] at hf <;>
    injection hi with hi
  case sendStd | sendExt => exact inRange_of_decodeData hi
  case remoteStd | remoteExt => exact inRange_of_decodeRemote hi
  all_goals rfl

end Sys2Proof

namespace Sys2Proof.Machine

/-! ## Frames -/

/-- The send command of a frame is well-formed exactly when the frame is valid. -/
theorem sendOf_wellFormed (f : Frame) : (sendOf f).wellFormed = f.valid := by
  obtain ⟨id, ext, len, bytes | _⟩ := f <;> cases ext <;>
    simp [sendOf, Instr.wellFormed, Operands.check, DataArgs.inRange, RemoteArgs.inRange,
      Frame.valid, Frame.payloadFits]

/-- The report of a frame is the text of its send command (R250). -/
theorem encode_sendOf {f : Frame} (h : f.len ≤ 8) : encode (sendOf f) = encodeFrame f := by
  have hlen : hexText f.len 1 = [decDigitByte f.len] := hexText_one_eq (by omega)
  obtain ⟨id, ext, len, bytes | _⟩ := f <;> cases ext <;>
    simp_all [sendOf, encode, Instr.opcode, Opcode.byte, Instr.operandText, Operands.text,
      headerText, encodeFrame, reportTag, Frame.rtr, reportData, hexBytes, idDigits]

theorem fieldError?_sendOf (f : Frame) : fieldError? (sendOf f) = none := by
  obtain ⟨id, ext, len, bytes | _⟩ := f <;> cases ext <;> rfl

theorem len_le_of_valid {f : Frame} (h : f.valid = true) : f.len ≤ 8 := by
  simp only [Frame.valid, Bool.and_eq_true, decide_eq_true_eq] at h
  exact h.1.2

/-- `Decode` of R196 gives a frame exactly on the lines of its send command. -/
theorem decodeFrame_eq_good {line : Line} {f : Frame} :
    decodeFrame line = some (.good f) ↔ decode line = some (sendOf f) := by
  constructor
  · intro h
    unfold decodeFrame at h
    split at h
    case h_5 => cases h
    all_goals
      rename_i hd
      obtain ⟨v, rfl, rfl⟩ := Operands.map_eq_good.mp (Option.some.inj h)
      exact hd
  · intro h
    unfold decodeFrame
    rw [h]
    obtain ⟨id, ext, len, bytes | _⟩ := f <;> cases ext <;> rfl

end Sys2Proof.Machine

namespace Sys2Proof.Proofs

open Sys2Proof Sys2Proof.Machine

/-- Settles O10: every format's decoder reads back the text of its operands. -/
theorem decodeEncodeAgree : Obligations.DecodeEncodeAgree := by
  unfold Obligations.DecodeEncodeAgree
  exact fun i h => decode_encode h

/-- Settles O11: every format's text is written back from what its decoder accepts in upper case. -/
theorem encodeDecodeAgreeUpperCase : Obligations.EncodeDecodeAgreeUpperCase := by
  unfold Obligations.EncodeDecodeAgreeUpperCase
  exact fun line i h hw hu => encode_of_decode h hw hu

/-- Settles O13: the report has the send command's bytes, and the frame's bounds are the command's.
-/
theorem reportIsSendText : Obligations.ReportIsSendText := by
  unfold Obligations.ReportIsSendText
  exact fun f h => ⟨encode_sendOf (len_le_of_valid h), (sendOf_wellFormed f).trans h⟩

/-- Settles O9: each format's decoder checks the bounds of its operands. -/
theorem acceptedLineIsWellFormed : Obligations.AcceptedLineIsWellFormed := by
  unfold Obligations.AcceptedLineIsWellFormed
  exact fun line i h hf => wellFormed_of_decode h hf

/-- Settles O12: a report is the text of the frame's send command, so both directions are those of
the command codec (O10, O11) at `sendOf f`. -/
theorem frameCodecInverse : Obligations.FrameCodecInverse := by
  unfold Obligations.FrameCodecInverse
  constructor
  · intro f hv
    rw [decodeFrame_eq_good, ← encode_sendOf (len_le_of_valid hv)]
    exact decode_encode ((sendOf_wellFormed f).trans hv)
  · intro line f h hu
    have hd := decodeFrame_eq_good.mp h
    have hw := wellFormed_of_decode hd (fieldError?_sendOf f)
    rw [← encode_sendOf (len_le_of_valid ((sendOf_wellFormed f).symm.trans hw))]
    exact encode_of_decode hd hw hu

end Sys2Proof.Proofs
end

section
/-! PROOFS, family other: the line framer. One equation per kind of byte (R121 to R124); runs of
several bytes follow by induction over the bytes. -/

namespace Sys2Proof.Machine

open Sys2Proof.Config (StepInput)

/-! ## One byte -/

/-- A terminator in an accumulating reader: the buffered line is dispatched (R121). -/
theorem step_of_term {s : State} (hs : s.env.nextStep = .consumeByte 0x0D)
    (hm : s.st.rdMode = .accumulate) :
    step s = dispatch s.st.rdBuf { s with
      st := { s.st with rdBuf := [] }, env := s.env.afterStep } :=
  (step_consumeByte hs).trans (consumeByte_term (s := { s with env := s.env.afterStep }) hm)

/-- Any other byte below the cap is appended (R124). -/
theorem step_of_ordinary {s : State} {b : Byte} (hs : s.env.nextStep = .consumeByte b)
    (hm : s.st.rdMode = .accumulate) (hb : b ≠ 0x0D) (hl : s.st.rdBuf.length < 31) :
    step s = .next { s with
      st := { s.st with rdBuf := s.st.rdBuf ++ [b] }, env := s.env.afterStep } := by
  rw [step_consumeByte hs, consumeByte_quiet fun h => hb h.2]
  simp [hm, hl.ne, State.setRdBuf]

/-- The byte that would exceed the cap (R122). -/
theorem step_of_overflow {s : State} {b : Byte} (hs : s.env.nextStep = .consumeByte b)
    (hm : s.st.rdMode = .accumulate) (hb : b ≠ 0x0D) (hl : s.st.rdBuf.length = 31) :
    step s = .next { s with
      st := { s.st with rdBuf := [], rdMode := .discard }
      env := s.env.afterStep
      output := s.output ++ [0x07]
      trace := s.trace ++ [.nack .bufferOverflow] } := by
  rw [step_consumeByte hs, consumeByte_quiet fun h => hb h.2]
  simp [hm, hl, State.setRdBuf, State.setRdMode, State.raiseNack, State.emit, State.record]

/-- A byte that a discarding reader takes (R123). -/
theorem step_of_discard {s : State} {b : Byte} (hs : s.env.nextStep = .consumeByte b)
    (hm : s.st.rdMode = .discard) :
    step s = .next { s with
      st := { s.st with rdMode := if b = 0x0D then .accumulate else .discard }
      env := s.env.afterStep } := by
  rw [step_consumeByte hs, consumeByte_quiet (by simp [hm])]
  by_cases hb : b = 0x0D
  · simp [hm, hb, State.setRdMode]
  · simp only [hm, hb, if_true, if_false]
    rw [← hm]

/-! ## Runs of bytes -/

theorem runSteps_one (s : State) : runSteps 1 s = step s := by
  rw [runSteps]
  cases step s <;> rfl

theorem runSteps_of_next {s t : State} (h : step s = .next t) (k : Nat) :
    runSteps (k + 1) s = runSteps k t := by
  rw [runSteps, h]

/-- An accumulating reader with room for them appends the bytes of the agenda to its buffer. -/
theorem runSteps_of_ordinary {line : Line} {rest : List StepInput} (k : Nat) {s : State}
    (hm : s.st.rdMode = .accumulate) (hline : 0x0D ∉ line)
    (hl : s.st.rdBuf.length + line.length ≤ 31)
    (ha : s.env.agenda = line.map .consumeByte ++ rest) :
    runSteps (line.length + k) s = runSteps k { s with
      st := { s.st with rdBuf := s.st.rdBuf ++ line }, env := { s.env with agenda := rest } } := by
  induction line generalizing s with
  | nil =>
    have ha' : s.env.agenda = rest := ha
    simp [← ha']
  | cons b line ih =>
    obtain ⟨hstep, hafter⟩ := Env.nextStep_of_agenda ha
    obtain ⟨hb, hline⟩ := List.ne_and_not_mem_of_not_mem_cons hline
    rw [List.length_cons] at hl
    have hnext := step_of_ordinary hstep hm hb.symm (by omega)
    rw [List.length_cons, Nat.add_right_comm, runSteps_of_next hnext, hafter]
    refine Eq.trans (ih hm hline (by simp; omega) (by rfl)) ?_
    simp

/-- A discarding reader drops the bytes of the agenda. -/
theorem runSteps_of_discard {bytes : Line} {rest : List StepInput} {s : State}
    (hm : s.st.rdMode = .discard) (hbytes : 0x0D ∉ bytes)
    (ha : s.env.agenda = bytes.map .consumeByte ++ rest) :
    runSteps bytes.length s = .next { s with env := { s.env with agenda := rest } } := by
  induction bytes generalizing s with
  | nil =>
    have ha' : s.env.agenda = rest := ha
    simp [runSteps, ← ha']
  | cons b bytes ih =>
    obtain ⟨hstep, hafter⟩ := Env.nextStep_of_agenda ha
    obtain ⟨hb, hbytes⟩ := List.ne_and_not_mem_of_not_mem_cons hbytes
    have hnext := step_of_discard hstep hm
    rw [if_neg hb.symm, ← hm, hafter] at hnext
    rw [List.length_cons, runSteps_of_next hnext]
    exact ih hm hbytes rfl

/-- The byte that would exceed the cap refuses the line, and the bytes after it are dropped. -/
theorem runSteps_of_overflow {b : Byte} {bytes : Line} {rest : List StepInput} {s : State}
    (hm : s.st.rdMode = .accumulate) (hb : b ≠ 0x0D) (hbytes : 0x0D ∉ bytes)
    (hl : s.st.rdBuf.length = 31) (ha : s.env.agenda = (b :: bytes).map .consumeByte ++ rest) :
    runSteps (bytes.length + 1) s = .next { s with
      st := { s.st with rdBuf := [], rdMode := .discard }
      env := { s.env with agenda := rest }
      output := s.output ++ [0x07]
      trace := s.trace ++ [.nack .bufferOverflow] } := by
  obtain ⟨hstep, hafter⟩ := Env.nextStep_of_agenda ha
  rw [runSteps_of_next (step_of_overflow hstep hm hb hl), hafter]
  exact Eq.trans (runSteps_of_discard (by rfl) hbytes (by rfl)) rfl

/-- The text of a well-formed command fits the line buffer and holds no terminator (R37, R93). -/
theorem encode_fits {i : Instr} (hw : i.wellFormed = true) :
    (encode i).length ≤ 26 ∧ 0x0D ∉ encode i := by
  have key : Laws.EncodedLine.Statement i := by
    cases i with
    | openChannel a => exact Laws.EncodedLine.openChannel a
    | closeChannel a => exact Laws.EncodedLine.closeChannel a
    | sendStd a => exact Laws.EncodedLine.sendStd a
    | sendExt a => exact Laws.EncodedLine.sendExt a
    | remoteStd a => exact Laws.EncodedLine.remoteStd a
    | remoteExt a => exact Laws.EncodedLine.remoteExt a
    | timestamp a => exact Laws.EncodedLine.timestamp a
    | setCode a => exact Laws.EncodedLine.setCode a
    | setMask a => exact Laws.EncodedLine.setMask a
    | customTiming a => exact Laws.EncodedLine.customTiming a
    | preset a => exact Laws.EncodedLine.preset a
    | status a => exact Laws.EncodedLine.status a
    | version a => exact Laws.EncodedLine.version a
    | serial a => exact Laws.EncodedLine.serial a
  exact key hw

/-- A whole host line and its terminator run to the dispatch of that line (R121, R124). -/
theorem runSteps_of_line {s : State} {line : Line} {rest : List StepInput}
    (hm : s.st.rdMode = .accumulate) (hbuf : s.st.rdBuf = []) (hline : 0x0D ∉ line)
    (hl : line.length ≤ 31) (ha : s.env.agenda = (line ++ [0x0D]).map .consumeByte ++ rest) :
    runSteps (line.length + 1) s =
      dispatch line { s with env := { s.env with agenda := rest } } := by
  rw [List.map_append, List.append_assoc] at ha
  rw [runSteps_of_ordinary 1 hm hline (by simpa [hbuf] using hl) ha, runSteps_one]
  refine Eq.trans (step_of_term (by rfl) hm) ?_
  have hempty : { s.st with rdBuf := [] } = s.st := by rw [← hbuf]
  exact congrArg₂ dispatch (by simp [hbuf])
    (congrArg (fun b => { s with st := b, env := { s.env with agenda := rest } }) hempty)

end Sys2Proof.Machine

namespace Sys2Proof.Proofs

open Sys2Proof Sys2Proof.Machine Sys2Proof.Config

/-- Settles O16: the step that takes the terminator is the dispatch of the buffered line. -/
theorem stepRunsDecodedInstruction : Obligations.StepRunsDecodedInstruction := by
  unfold Obligations.StepRunsDecodedInstruction
  intro s i hs hm hd
  rw [step_of_term hs hm, dispatch, hd]

/-- Settles O17: the same step on a line without a command is the unknown-command handler. -/
theorem unknownLineIsNackedWithPulse : Obligations.UnknownLineIsNackedWithPulse := by
  unfold Obligations.UnknownLineIsNackedWithPulse
  refine ⟨rfl, fun s hs hm hd => ?_⟩
  rw [step_of_term hs hm, dispatch, hd]
  simp [unknownCommand, refuseWithPulse, refuseLine, State.pulse, State.raiseNack, State.record,
    State.emit]

/-- Settles O18, by the framer's overflow equation. -/
theorem overflowNacksOnce : Obligations.OverflowNacksOnce := by
  unfold Obligations.OverflowNacksOnce
  exact fun s b hs hm hb hl => step_of_overflow hs hm hb hl

/-- Settles O19, by the framer's discard equation. -/
theorem discardUntilTerminator : Obligations.DiscardUntilTerminator := by
  unfold Obligations.DiscardUntilTerminator
  exact fun s b hs hm => step_of_discard hs hm

/-- Settles O20, by the framer's append equation. -/
theorem ordinaryByteIsAppended : Obligations.OrdinaryByteIsAppended := by
  unfold Obligations.OrdinaryByteIsAppended
  exact fun s b hs hm hb hl => step_of_ordinary hs hm hb hl

/-- Settles O21: the line is appended byte by byte, then its terminator dispatches it. -/
theorem hostLineIsDispatchedWhole : Obligations.HostLineIsDispatchedWhole := by
  unfold Obligations.HostLineIsDispatchedWhole
  exact fun s line rest hm hbuf hline hl ha => runSteps_of_line hm hbuf hline hl ha

/-- Settles O22: the text of a well-formed command fits the buffer and holds no terminator, so it is
dispatched whole, and it decodes to the command (O10). -/
theorem hostTextRunsCommand : Obligations.HostTextRunsCommand := by
  unfold Obligations.HostTextRunsCommand
  intro s i rest hm hbuf hw ha
  obtain ⟨hl, hterm⟩ := encode_fits hw
  rw [runSteps_of_line hm hbuf hterm (by omega) ha, dispatch, decode_encode hw]

/-- Settles O23: 31 bytes fill the buffer, the next one overflows, and the reader drops the others.
-/
theorem overlongLineNacksExactlyOnce : Obligations.OverlongLineNacksExactlyOnce := by
  unfold Obligations.OverlongLineNacksExactlyOnce
  intro s bytes rest hm hbuf hterm hl ha
  obtain ⟨b, tail, hdrop⟩ := List.exists_cons_of_length_pos
    (l := bytes.drop 31) (by rw [List.length_drop]; omega)
  obtain ⟨kept, hkept, rfl⟩ : ∃ kept : Line, kept.length = 31 ∧ bytes = kept ++ b :: tail :=
    ⟨bytes.take 31, by rw [List.length_take]; omega, by rw [← hdrop, List.take_append_drop]⟩
  simp only [List.mem_append, List.mem_cons, not_or] at hterm
  obtain ⟨hkeptTerm, hb, htail⟩ := hterm
  rw [List.map_append, List.append_assoc] at ha
  rw [List.length_append, runSteps_of_ordinary _ hm hkeptTerm (by simp [hbuf, hkept]) ha]
  refine Eq.trans (runSteps_of_overflow hm (Ne.symm hb) htail (by simp [hbuf, hkept]) (by rfl)) ?_
  rw [← hbuf]

end Sys2Proof.Proofs
end

section
/-! PROOFS, family other: what a command does, said once. `Ran i s t es` lists the ways in which the
command `i` leads from `s` to `t` with the events `es`; every command runs in one of them
(`exec_ran`), and the statements about commands are read off its cases. -/

namespace Sys2Proof.Machine

open Sys2Proof.Config (CtlResult)

/-! ## The commands that call the controller -/

theorem isSend_sendOf (f : Frame) : isSend (sendOf f).opcode = true := by
  obtain ⟨id, ext, len, bytes | _⟩ := f <;> cases ext <;> rfl

theorem isLifecycle_of_isSend {op : Opcode} (h : isSend op = true) : isLifecycle op = false := by
  cases op <;> simp [isSend, isLifecycle] at h ⊢

theorem isLifecycle_sendOf (f : Frame) : isLifecycle (sendOf f).opcode = false :=
  isLifecycle_of_isSend (isSend_sendOf f)

theorem legalPhase_sendOf (f : Frame) : legalPhase (sendOf f).opcode .opened = true := by
  obtain ⟨id, ext, len, bytes | _⟩ := f <;> cases ext <;> rfl

/-- The machine after a controller call. -/
def State.afterCall (s : State) (op : Call) : State := (s.callController op).2

@[simp] theorem State.afterCall_st (s : State) (op : Call) : (s.afterCall op).st = s.st := rfl
@[simp] theorem State.afterCall_env (s : State) (op : Call) :
    (s.afterCall op).env = s.env.afterResult := rfl
@[simp] theorem State.afterCall_output (s : State) (op : Call) :
    (s.afterCall op).output = s.output := rfl
@[simp] theorem State.afterCall_trace (s : State) (op : Call) :
    (s.afterCall op).trace = s.trace ++ [Event.call op s.env.nextResult] := rfl
@[simp] theorem State.afterCall_handed (s : State) (op : Call) :
    (s.afterCall op).handed = s.handed ++ handOver op s.handed.length := rfl

/-- The `install` call of `O`: the timing and the filter words of the block. -/
def installCall (b : Block) : Call := .install b.timing b.filtCode b.filtMask

/-- How the two calls of `O` and `C` go, with the events they record; `done` is the block's own
change when both answer ok (R160, R164). -/
inductive TwoCalls (op1 op2 : Call) (done : State → State) (s : State) :
    State → List Event → Prop where
  | firstFailed (h1 : s.env.nextResult = .fail) :
      TwoCalls op1 op2 done s ((s.afterCall op1).pulse.raiseNack .controllerFailure)
        [.call op1 .fail, .indPulse, .nack .controllerFailure]
  | secondFailed (h1 : s.env.nextResult = .ok) (h2 : s.env.afterResult.nextResult = .fail) :
      TwoCalls op1 op2 done s (((s.afterCall op1).afterCall op2).pulse.raiseNack .controllerFailure)
        [.call op1 .ok, .call op2 .fail, .indPulse, .nack .controllerFailure]
  | bothOk (h1 : s.env.nextResult = .ok) (h2 : s.env.afterResult.nextResult = .ok) :
      TwoCalls op1 op2 done s (done ((s.afterCall op1).afterCall op2)).pulse.ack
        [.call op1 .ok, .call op2 .ok, .indPulse]

/-- The command `i` leads from `s` to `t` and records the events `es`. -/
inductive Ran (i : Instr) (s : State) : State → List Event → Prop where
  /-- Refused for the phase, with the pulse of `O` and `C` (R143, R146). -/
  | illegal (hp : legalPhase i.opcode s.st.phase = false) :
      Ran i s ((if isLifecycle i.opcode then s.pulse else s).raiseNack .illegalState)
        ((if isLifecycle i.opcode then [.indPulse] else []) ++ [.nack .illegalState])
  /-- Refused for the fields (R88, R145). -/
  | bad (k : NackKind) (hp : legalPhase i.opcode s.st.phase = true) (hf : fieldError? i = some k) :
      Ran i s (s.raiseNack k) [.nack k]
  /-- A configuration command or a query: its one write and its reply. -/
  | plain (hs : isSend i.opcode = false) (hl : isLifecycle i.opcode = false)
      (hp : legalPhase i.opcode s.st.phase = true) (hf : fieldError? i = none) :
      Ran i s { s with st := blockAfter i s.st, output := s.output ++ successReply i.opcode } []
  /-- A send whose `transmit` answers ok (R193). -/
  | sent (f : Frame) (hi : i = sendOf f) (hp : s.st.phase = .opened) (hr : s.env.nextResult = .ok) :
      Ran i s ((s.afterCall (.transmit f 1000)).emit (successReply i.opcode))
        [.call (.transmit f 1000) .ok]
  /-- A send whose `transmit` fails. -/
  | sendFailed (f : Frame) (hi : i = sendOf f) (hp : s.st.phase = .opened)
      (hr : s.env.nextResult = .fail) :
      Ran i s ((s.afterCall (.transmit f 1000)).raiseNack .controllerFailure)
        [.call (.transmit f 1000) .fail, .nack .controllerFailure]
  /-- A legal `O`. -/
  | opens (hi : i = .openChannel (.good ())) (hp : s.st.phase = .configured) {t : State}
      {es : List Event} (hc : TwoCalls (installCall s.st) .start State.enterOpen s t es) :
      Ran i s t es
  /-- A legal `C`. -/
  | closes (hi : i = .closeChannel (.good ())) (hp : s.st.phase = .opened) {t : State}
      {es : List Event} (hc : TwoCalls .stop .uninstall State.enterClosed s t es) : Ran i s t es

/-! ## Every command runs in one of these ways -/

theorem twoCalls_exists (op1 op2 : Call) (done : State → State) (s : State) :
    ∃ t es, TwoCalls op1 op2 done s t es := by
  cases h1 : s.env.nextResult with
  | fail => exact ⟨_, _, .firstFailed h1⟩
  | ok =>
    cases h2 : s.env.afterResult.nextResult with
    | fail => exact ⟨_, _, .secondFailed h1 h2⟩
    | ok => exact ⟨_, _, .bothOk h1 h2⟩

/-- A legal `O` or `C` with good operands. -/
theorem ran_of_lifecycle {i : Instr} {s : State} (hl : isLifecycle i.opcode = true)
    (hp : legalPhase i.opcode s.st.phase = true) (hf : fieldError? i = none) :
    ∃ t es, Ran i s t es := by
  cases i with
  | openChannel a =>
    cases a with
    | bad k => cases hf
    | good v =>
      obtain ⟨t, es, hc⟩ := twoCalls_exists (installCall s.st) .start State.enterOpen s
      exact ⟨t, es, .opens rfl (of_decide_eq_true hp) hc⟩
  | closeChannel a =>
    cases a with
    | bad k => cases hf
    | good v =>
      obtain ⟨t, es, hc⟩ := twoCalls_exists .stop .uninstall State.enterClosed s
      exact ⟨t, es, .closes rfl (of_decide_eq_true hp) hc⟩
  | _ => cases hl

/-- A legal send with good operands. -/
theorem ran_of_send {i : Instr} {s : State} (hs : isSend i.opcode = true)
    (hp : legalPhase i.opcode s.st.phase = true) (hf : fieldError? i = none) :
    ∃ t es, Ran i s t es := by
  have hphase := opened_of_legal_send hs hp
  obtain ⟨f, hi, -⟩ := exec_of_send hs hphase hf
  cases hr : s.env.nextResult with
  | ok => exact ⟨_, _, .sent f hi hphase hr⟩
  | fail => exact ⟨_, _, .sendFailed f hi hphase hr⟩

theorem ran_exists (i : Instr) (s : State) : ∃ t es, Ran i s t es := by
  cases hp : legalPhase i.opcode s.st.phase with
  | false => exact ⟨_, _, .illegal hp⟩
  | true =>
    cases hf : fieldError? i with
    | some k => exact ⟨_, _, .bad k hp hf⟩
    | none =>
      cases hs : isSend i.opcode with
      | true => exact ran_of_send hs hp hf
      | false =>
        cases hl : isLifecycle i.opcode with
        | true => exact ran_of_lifecycle hl hp hf
        | false => exact ⟨_, _, .plain hs hl hp hf⟩

/-! ## `Ran` says what `exec` does -/

/-- The branches of the handlers of `O` and `C`, by the two answers. -/
theorem branches_of_twoCalls {op1 op2 : Call} {done : State → State} {s t : State} {es : List Event}
    (h : TwoCalls op1 op2 done s t es) :
    (if s.env.nextResult = .fail then refuseWithPulse (s.afterCall op1) .controllerFailure
      else if (s.afterCall op1).env.nextResult = .fail then
        refuseWithPulse ((s.afterCall op1).afterCall op2) .controllerFailure
      else .next (done ((s.afterCall op1).afterCall op2)).pulse.ack) = .next t := by
  cases h with
  | firstFailed h1 => simp [h1, refuseWithPulse, refuseLine]
  | secondFailed h1 h2 => simp [h1, h2, refuseWithPulse, refuseLine]
  | bothOk h1 h2 => simp [h1, h2]

/-- The send command of a frame, in `Open`, is the one transmit call of that frame (R193). -/
theorem exec_sendOf {f : Frame} {s : State} (hp : s.st.phase = .opened) :
    exec (sendOf f) s = transmitFrame f (successReply (sendOf f).opcode) s := by
  obtain ⟨id, ext, len, bytes | _⟩ := f <;> cases ext <;>
    simp [sendOf, exec, execSendStd, execSendExt, execRemoteStd, execRemoteExt, hp,
      DataArgs.toFrame, RemoteArgs.toFrame, stdReply, extReply, successReply, Instr.opcode]

theorem exec_of_ran {i : Instr} {s t : State} {es : List Event} (h : Ran i s t es) :
    exec i s = .next t := by
  cases h with
  | illegal hp => exact exec_of_illegal hp
  | bad k hp hf => exact exec_of_bad hp hf
  | plain hs hl hp hf => exact exec_of_plain hs hl hp hf
  | sent f hi hp hr =>
    subst hi
    rw [exec_sendOf hp, transmitFrame, State.callController_eq, hr]
    rfl
  | sendFailed f hi hp hr =>
    subst hi
    rw [exec_sendOf hp, transmitFrame, State.callController_eq, hr]
    rfl
  | opens hi hp hc =>
    subst hi
    exact (execOpenChannel_of_legal hp).trans (branches_of_twoCalls hc)
  | closes hi hp hc =>
    subst hi
    exact (execCloseChannel_of_legal hp).trans (branches_of_twoCalls hc)

/-- Every command, in every state, goes on to a next state (R141). -/
theorem exec_ran (i : Instr) (s : State) : ∃ t es, exec i s = .next t ∧ Ran i s t es := by
  obtain ⟨t, es, hr⟩ := ran_exists i s
  exact ⟨t, es, exec_of_ran hr, hr⟩

theorem TwoCalls.trace_eq {op1 op2 : Call} {done : State → State} {s t : State} {es : List Event}
    (hdone : ∀ s, (done s).trace = s.trace) (h : TwoCalls op1 op2 done s t es) :
    t.trace = s.trace ++ es := by
  cases h with
  | firstFailed h1 => simp [h1]
  | secondFailed h1 h2 => simp [h1, h2]
  | bothOk h1 h2 => simp [h1, h2, hdone]

/-- The events of `Ran` are those that the trace grew by. -/
theorem Ran.trace_eq {i : Instr} {s t : State} {es : List Event} (h : Ran i s t es) :
    t.trace = s.trace ++ es := by
  cases h with
  | illegal hp => cases isLifecycle i.opcode <;> simp
  | bad k hp hf => simp
  | plain hs hl hp hf => simp
  | sent f hi hp hr => simp [hr]
  | sendFailed f hi hp hr => simp [hr]
  | opens hi hp hc => exact hc.trace_eq State.enterOpen_trace
  | closes hi hp hc => exact hc.trace_eq State.enterClosed_trace

/-- A command that goes on ran in one of the ways of `Ran`. -/
theorem ran_of_exec {i : Instr} {s t : State} (h : exec i s = .next t) : ∃ es, Ran i s t es := by
  obtain ⟨t', es, ht, hr⟩ := exec_ran i s
  obtain rfl : t' = t := Host.Outcome.next.inj (ht.symm.trans h)
  exact ⟨es, hr⟩

/-- The same, for the events that the trace grew by. -/
theorem ran_of_exec_events {i : Instr} {s t : State} {es : List Event} (h : exec i s = .next t)
    (hes : t.trace = s.trace ++ es) : Ran i s t es := by
  obtain ⟨es', hr⟩ := ran_of_exec h
  obtain rfl := List.append_cancel_left (hr.trace_eq.symm.trans hes)
  exact hr

/-! ## What `Ran` says of `st` -/

theorem TwoCalls.st_cases {op1 op2 : Call} {done : State → State} {g : Block → Block} {s t : State}
    {es : List Event} (hdone : ∀ s, (done s).st = g s.st) (h : TwoCalls op1 op2 done s t es) :
    t.st = s.st ∨ (t.st = g s.st ∧ es = [.call op1 .ok, .call op2 .ok, .indPulse]) := by
  cases h with
  | firstFailed h1 => exact .inl rfl
  | secondFailed h1 h2 => exact .inl rfl
  | bothOk h1 h2 => exact .inr ⟨by simp [hdone], rfl⟩

/-- What a command may have written, and when (R46, R168). -/
inductive Wrote (i : Instr) (b : Block) (es : List Event) : Block → Prop where
  | nothing : Wrote i b es b
  | plain (hs : isSend i.opcode = false) (hl : isLifecycle i.opcode = false)
      (hp : legalPhase i.opcode b.phase = true) (hf : fieldError? i = none) :
      Wrote i b es (blockAfter i b)
  | opened (hi : i = .openChannel (.good ())) (hp : b.phase = .configured)
      (hes : es = [.call (installCall b) .ok, .call .start .ok, .indPulse]) :
      Wrote i b es { b with phase := .opened }
  | closed (hi : i = .closeChannel (.good ())) (hp : b.phase = .opened)
      (hes : es = [.call .stop .ok, .call .uninstall .ok, .indPulse]) :
      Wrote i b es { b with phase := .closed, timing := .none }

theorem Ran.wrote {i : Instr} {s t : State} {es : List Event} (h : Ran i s t es) :
    Wrote i s.st es t.st := by
  cases h with
  | illegal hp =>
    have hst : ((if isLifecycle i.opcode then s.pulse else s).raiseNack .illegalState).st =
        s.st := by
      cases isLifecycle i.opcode <;> rfl
    rw [hst]
    exact .nothing
  | bad k hp hf => exact .nothing
  | plain hs hl hp hf => exact .plain hs hl hp hf
  | sent f hi hp hr => exact .nothing
  | sendFailed f hi hp hr => exact .nothing
  | opens hi hp hc =>
    obtain hst | ⟨hst, hes⟩ := hc.st_cases (g := fun b => { b with phase := .opened })
      State.enterOpen_st
    · rw [hst]
      exact .nothing
    · rw [hst]
      exact .opened hi hp hes
  | closes hi hp hc =>
    obtain hst | ⟨hst, hes⟩ := hc.st_cases
      (g := fun b => { b with phase := .closed, timing := .none }) State.enterClosed_st
    · rw [hst]
      exact .nothing
    · rw [hst]
      exact .closed hi hp hes

/-! ## What `Ran` says of the answer -/

/-- The machine answered with the NACK byte, and its one `Nack` event is the last one. -/
def Nacked (s t : State) (es : List Event) : Prop :=
  t.output = s.output ++ [0x07] ∧ ∃ (kind : NackKind) (init : List Event),
    es = init ++ [Event.nack kind] ∧ ∀ e ∈ init, ∀ k, e ≠ .nack k

theorem TwoCalls.answer {op1 op2 : Call} {done : State → State} {s t : State} {es : List Event}
    (hdone : ∀ s, (done s).output = s.output) (h : TwoCalls op1 op2 done s t es) :
    Nacked s t es ∨ (t.output = s.output ++ [0x0D] ∧ ∀ e ∈ es, ∀ k, e ≠ .nack k) := by
  cases h with
  | firstFailed h1 => exact .inl ⟨rfl, _, [_, _], rfl, by simp⟩
  | secondFailed h1 h2 => exact .inl ⟨rfl, _, [_, _, _], rfl, by simp⟩
  | bothOk h1 h2 => exact .inr ⟨by simp [hdone], by simp⟩

/-- One NACK, or the success reply of a legal command with good operands (R141). -/
theorem Ran.answer {i : Instr} {s t : State} {es : List Event} (h : Ran i s t es) :
    Nacked s t es ∨
      (t.output = s.output ++ successReply i.opcode ∧ fieldError? i = none ∧
        legalPhase i.opcode s.st.phase = true ∧ ∀ e ∈ es, ∀ k, e ≠ .nack k) := by
  cases h with
  | illegal hp =>
    refine .inl ⟨?_, _, _, rfl, ?_⟩ <;> cases isLifecycle i.opcode <;> simp
  | bad k hp hf => exact .inl ⟨rfl, k, [], rfl, by simp⟩
  | plain hs hl hp hf => exact .inr ⟨rfl, hf, hp, by simp⟩
  | sent f hi hp hr =>
    subst hi
    exact .inr ⟨rfl, fieldError?_sendOf f, by rw [hp, legalPhase_sendOf], by simp⟩
  | sendFailed f hi hp hr => exact .inl ⟨rfl, _, [_], rfl, by simp⟩
  | opens hi hp hc =>
    subst hi
    exact (hc.answer State.enterOpen_output).imp_right fun ⟨ho, hn⟩ =>
      ⟨ho, rfl, by rw [hp]; rfl, hn⟩
  | closes hi hp hc =>
    subst hi
    exact (hc.answer State.enterClosed_output).imp_right fun ⟨ho, hn⟩ =>
      ⟨ho, rfl, by rw [hp]; rfl, hn⟩

/-! ## What `Ran` says of the events -/

theorem TwoCalls.count_indPulse {op1 op2 : Call} {done : State → State} {s t : State}
    {es : List Event} (h : TwoCalls op1 op2 done s t es) : es.count .indPulse = 1 := by
  cases h <;> rfl

theorem Ran.count_indPulse {i : Instr} {s t : State} {es : List Event} (h : Ran i s t es) :
    es.count .indPulse =
      if isLifecycle i.opcode = true ∧
        (legalPhase i.opcode s.st.phase = false ∨ fieldError? i = none) then 1 else 0 := by
  cases h with
  | illegal hp => cases hl : isLifecycle i.opcode <;> simp [hp]
  | bad k hp hf => simp [hp, hf]
  | plain hs hl hp hf => simp [hl]
  | sent f hi hp hr => subst hi; simp [isLifecycle_sendOf]
  | sendFailed f hi hp hr => subst hi; simp [isLifecycle_sendOf]
  | opens hi hp hc => subst hi; rw [hc.count_indPulse, if_pos ⟨rfl, .inr rfl⟩]
  | closes hi hp hc => subst hi; rw [hc.count_indPulse, if_pos ⟨rfl, .inr rfl⟩]

/-- The controller calls of a command, as its events show them (R142). -/
inductive Calls (i : Instr) (b : Block) : List Event → Prop where
  | none : Calls i b []
  | transmit (f : Frame) (r : CtlResult) (hi : i = sendOf f) (hp : b.phase = .opened) :
      Calls i b [.call (.transmit f 1000) r]
  | opens (hi : i = .openChannel (.good ())) {cs : List Event}
      (hcs : cs ∈ [[Event.call (installCall b) .fail],
        [.call (installCall b) .ok, .call .start .ok],
        [.call (installCall b) .ok, .call .start .fail]]) :
      Calls i b cs
  | closes (hi : i = .closeChannel (.good ())) {cs : List Event}
      (hcs : cs ∈ [[Event.call .stop .fail],
        [.call .stop .ok, .call .uninstall .ok], [.call .stop .ok, .call .uninstall .fail]]) :
      Calls i b cs

theorem TwoCalls.filter_isCall {op1 op2 : Call} {done : State → State} {s t : State}
    {es : List Event} (h : TwoCalls op1 op2 done s t es) :
    es.filter Event.isCall ∈ [[Event.call op1 .fail], [.call op1 .ok, .call op2 .ok],
      [.call op1 .ok, .call op2 .fail]] := by
  cases h with
  | firstFailed h1 => exact .head _
  | secondFailed h1 h2 => exact .tail _ (.tail _ (.head _))
  | bothOk h1 h2 => exact .tail _ (.head _)

theorem Ran.calls {i : Instr} {s t : State} {es : List Event} (h : Ran i s t es) :
    Calls i s.st (es.filter Event.isCall) := by
  cases h with
  | illegal hp => cases isLifecycle i.opcode <;> exact .none
  | bad k hp hf => exact .none
  | plain hs hl hp hf => exact .none
  | sent f hi hp hr => exact .transmit f .ok hi hp
  | sendFailed f hi hp hr => exact .transmit f .fail hi hp
  | opens hi hp hc => exact .opens hi hc.filter_isCall
  | closes hi hp hc => exact .closes hi hc.filter_isCall

/-- A `transmit` call is that of the send command whose frame it carries. -/
theorem Ran.of_transmit {i : Instr} {s t : State} {es : List Event} (h : Ran i s t es) {f : Frame}
    {ms : Nat} {r : CtlResult} (hmem : .call (.transmit f ms) r ∈ es) :
    i = sendOf f ∧ ms = 1000 ∧ s.st.phase = .opened ∧
      es.filter Event.isCall = [.call (.transmit f 1000) r] := by
  have hcall : Event.call (.transmit f ms) r ∈ es.filter Event.isCall :=
    List.mem_filter.mpr ⟨hmem, rfl⟩
  have hcalls := h.calls
  generalize es.filter Event.isCall = cs at hcall hcalls ⊢
  cases hcalls with
  | none => cases hcall
  | transmit f' r' hi hp =>
    simp only [List.mem_singleton, Event.call.injEq, Call.transmit.injEq] at hcall
    obtain ⟨⟨rfl, rfl⟩, rfl⟩ := hcall
    exact ⟨hi, rfl, hp, rfl⟩
  | opens hi hcs =>
    simp only [List.mem_cons, List.not_mem_nil, or_false] at hcs
    obtain rfl | rfl | rfl := hcs <;> simp [installCall] at hcall
  | closes hi hcs =>
    simp only [List.mem_cons, List.not_mem_nil, or_false] at hcs
    obtain rfl | rfl | rfl := hcs <;> simp at hcall

/-- A failed call of `O` or `C`: the calls before it answered ok, and only a pulse and the NACK
follow. -/
theorem TwoCalls.failed_call {op1 op2 : Call} {done : State → State} {s t : State} {es : List Event}
    (h : TwoCalls op1 op2 done s t es) (hk : .nack .controllerFailure ∈ es) :
    t.st = s.st ∧ ∃ (before : List Call) (op : Call) (after : List Event),
      es = before.map (Event.call · .ok) ++ [Event.call op .fail] ++ after ∧
      (∀ e ∈ after, e.isCall = false) ∧
      ((op = op1 ∧ before = []) ∨ (op = op2 ∧ before = [op1])) := by
  cases h with
  | firstFailed h1 => exact ⟨rfl, [], op1, _, rfl, by simp [Event.isCall], .inl ⟨rfl, rfl⟩⟩
  | secondFailed h1 h2 => exact ⟨rfl, [op1], op2, _, rfl, by simp [Event.isCall], .inr ⟨rfl, rfl⟩⟩
  | bothOk h1 h2 => simp at hk

end Sys2Proof.Machine

namespace Sys2Proof.Proofs

open Sys2Proof Sys2Proof.Machine Sys2Proof.Config

/-- Settles O24, by the two refusals that precede a command's own effect. -/
theorem phaseGatesCommands : Obligations.PhaseGatesCommands := by
  unfold Obligations.PhaseGatesCommands
  refine fun i s => ⟨fun hp => ⟨_, exec_of_illegal hp, ?_⟩, fun hp kind hf => exec_of_bad hp hf⟩
  cases isLifecycle i.opcode <;> simp

/-- Settles O27: only a failed `transmit` and a failed call of `O` or `C` raise the kind, each as
the last of the calls made. -/
theorem controllerFailureFollowsFailedCall : Obligations.ControllerFailureFollowsFailedCall := by
  unfold Obligations.ControllerFailureFollowsFailedCall
  intro i s t es h hes hk hf
  cases ran_of_exec_events h hes with
  | illegal hp => cases isLifecycle i.opcode <;> simp at hk
  | bad k hp hfk =>
    obtain rfl : NackKind.controllerFailure = k := by simpa using hk
    exact absurd hfk hf
  | plain hs hl hp hfn => cases hk
  | sent f hi hp hr => simp at hk
  | sendFailed f hi hp hr =>
    refine ⟨rfl, [], .transmit f 1000, _, rfl, by simp [Event.isCall], ?_⟩
    subst hi
    obtain ⟨id, ext, len, bytes | _⟩ := f <;> cases ext <;> exact ⟨⟨_, rfl⟩, rfl⟩
  | opens hi hp hc => subst hi; exact hc.failed_call hk
  | closes hi hp hc => subst hi; exact hc.failed_call hk

/-- Settles O28: every command runs in one of the ways of `Ran`, and each is answered once. -/
theorem everyCommandAnswersOnce : Obligations.EveryCommandAnswersOnce := by
  unfold Obligations.EveryCommandAnswersOnce
  intro i s
  obtain ⟨t, es, ht, hr⟩ := exec_ran i s
  exact ⟨t, es, ht, hr.trace_eq, hr.answer⟩

/-- Settles O30: a command's pulses by `Ran.count_indPulse`, the unknown command's one by its
handler. -/
theorem pulseInExactlyTheFiveCases : Obligations.PulseInExactlyTheFiveCases := by
  unfold Obligations.PulseInExactlyTheFiveCases
  intro line s t es h hes
  obtain ⟨hd, rfl⟩ | ⟨i, hd, he⟩ := dispatch_next h
  · obtain rfl : [.indPulse, .nack .illegalState] = es := by simpa using hes
    rw [hd]
    rfl
  · rw [hd]
    exact (ran_of_exec_events he hes).count_indPulse

/-- Settles O31, by the calls of `Ran`. -/
theorem commandsCallOnlyTheirOperations : Obligations.CommandsCallOnlyTheirOperations := by
  unfold Obligations.CommandsCallOnlyTheirOperations
  intro i s t es h hes
  have hcalls := (ran_of_exec_events h hes).calls
  generalize es.filter Event.isCall = cs at hcalls ⊢
  cases hcalls with
  | none => cases i <;> simp [Instr.opcode, isSend]
  | transmit f r hi hp =>
    subst hi
    obtain ⟨id, ext, len, bytes | _⟩ := f <;> cases ext <;> exact .inr ⟨_, r, rfl⟩
  | opens hi hcs => subst hi; exact .tail _ hcs
  | closes hi hcs => subst hi; exact .tail _ hcs

/-- Settles O41: a send that is not legal is refused for the phase, and a `transmit` call is that of
a legal send. -/
theorem transmitOnlyWhileOpen : Obligations.TransmitOnlyWhileOpen := by
  unfold Obligations.TransmitOnlyWhileOpen
  intro i s t es h hes
  constructor
  · intro hs hp
    have hillegal : legalPhase i.opcode s.st.phase = false :=
      Bool.eq_false_iff.mpr fun hl => hp (opened_of_legal_send hs hl)
    rw [exec_of_illegal hillegal, isLifecycle_of_isSend hs] at h
    exact (Host.Outcome.next.inj h).symm
  · rintro ⟨f, ms, r, hmem⟩
    obtain ⟨rfl, -, hp, hcalls⟩ := (ran_of_exec_events h hes).of_transmit hmem
    exact ⟨isSend_sendOf f, hp, f, r, hcalls⟩

/-- Settles O42, by the writes of `Ran`. -/
theorem eachCommandWritesOnlyItsFields : Obligations.EachCommandWritesOnlyItsFields := by
  unfold Obligations.EachCommandWritesOnlyItsFields
  intro i s t h
  obtain ⟨es, hr⟩ := ran_of_exec h
  have hw := hr.wrote
  generalize t.st = b at hw ⊢
  cases hw with
  | nothing => cases i <;> rfl
  | plain hs hl hp hf =>
    rcases i with a | a | a | a | a | a | a | a | a | a | a | a | a | a <;> rcases a with a | k <;>
      rfl
  | opened hi hp hes => subst hi; rfl
  | closed hi hp hes => subst hi; rfl

end Sys2Proof.Proofs
end

section
/-! PROOFS, family other: what a step does, said once. A step takes a byte that ends no line,
dispatches a line, or polls (`Stepped`); the rules of the whole machine are read off these cases,
the dispatched command's off those of `Ran`. -/

namespace Sys2Proof.Machine

/-! ## The four ways of a step -/

/-- The machine that handles the input of a step: the schedule has moved on. -/
def State.scheduled (s : State) : State := { s with env := s.env.afterStep }

/-- The machine that a dispatched line runs in: the schedule has moved on and the buffer is empty.
-/
def State.dispatching (s : State) : State := s.scheduled.setRdBuf []

@[simp] theorem State.scheduled_st (s : State) : s.scheduled.st = s.st := rfl
@[simp] theorem State.scheduled_env (s : State) : s.scheduled.env = s.env.afterStep := rfl
@[simp] theorem State.scheduled_output (s : State) : s.scheduled.output = s.output := rfl
@[simp] theorem State.scheduled_trace (s : State) : s.scheduled.trace = s.trace := rfl
@[simp] theorem State.scheduled_handed (s : State) : s.scheduled.handed = s.handed := rfl

/-- How a step leads from `s` to `t`. -/
inductive Stepped (s t : State) : Prop where
  /-- A byte that ends no line (R122 to R124). -/
  | quiet (b : Byte) (hs : s.env.nextStep = .consumeByte b)
      (hq : ¬(s.st.rdMode = .accumulate ∧ b = 0x0D)) (ht : consumeByte b s.scheduled = .next t)
  /-- A line without a command (R147). -/
  | unknown (hs : s.env.nextStep = .consumeByte 0x0D) (hm : s.st.rdMode = .accumulate)
      (hd : decode s.st.rdBuf = none) (ht : t = s.dispatching.pulse.raiseNack .illegalState)
  /-- A line with a command (R140). -/
  | command (i : Instr) (es : List Event) (hs : s.env.nextStep = .consumeByte 0x0D)
      (hm : s.st.rdMode = .accumulate) (hd : decode s.st.rdBuf = some i)
      (hr : Ran i s.dispatching t es)
  /-- A poll (R245). -/
  | polled (hs : s.env.nextStep = .poll) (ht : poll s.scheduled = .next t)

theorem stepped_of_step {s t : State} (h : step s = .next t) : Stepped s t := by
  obtain ⟨b, hs, hq, he⟩ | ⟨hs, hm, he⟩ | ⟨hs, he⟩ := step_cases s
  · exact .quiet b hs hq (he.symm.trans h)
  · obtain ⟨hd, ht⟩ | ⟨i, hd, hi⟩ := dispatch_next (he.symm.trans h)
    · exact .unknown hs hm hd ht
    · obtain ⟨es, hr⟩ := ran_of_exec hi
      exact .command i es hs hm hd hr
  · exact .polled hs (he.symm.trans h)

/-- A command without a controller call keeps the framer's fields, and only `S` and `s` write the
phase and the timing (R46). -/
theorem blockAfter_cases (i : Instr) (b : Block) :
    (blockAfter i b).rdBuf = b.rdBuf ∧ (blockAfter i b).rdMode = b.rdMode ∧
      (((blockAfter i b).phase = b.phase ∧ (blockAfter i b).timing = b.timing) ∨
        ((blockAfter i b).phase = .configured ∧
          ((∃ k, i = .preset (.good k) ∧ (blockAfter i b).timing = .preset k) ∨
            ∃ v, i = .customTiming (.good v) ∧ (blockAfter i b).timing = .custom v.b0 v.b1))) := by
  rcases i with a | a | a | a | a | a | a | a | a | a | a | a | a | a <;> rcases a with a | k <;>
    simp [blockAfter]

/-! ## The invariant of the block (R37, R38, R47) -/

theorem Block.inv_iff (b : Block) : b.inv = true ↔
    (b.rdBuf.length ≤ 31 ∧ 0x0D ∉ b.rdBuf) ∧ (b.rdMode = .discard → b.rdBuf = []) ∧
      (b.timing = .none ↔ b.phase = .closed) := by
  simp only [Block.inv, Block.bufferOk, Block.discardOk, Block.timingOk, Bool.and_eq_true,
    decide_eq_true_eq, and_assoc]

/-- A command keeps the framer's fields, and the timing is none exactly while closed. -/
theorem Wrote.keeps_inv {i : Instr} {b c : Block} {es : List Event} (h : Wrote i b es c)
    (hinv : b.inv = true) : c.inv = true := by
  rw [Block.inv_iff] at hinv ⊢
  obtain ⟨hbuf, hdiscard, htiming⟩ := hinv
  cases h with
  | nothing => exact ⟨hbuf, hdiscard, htiming⟩
  | plain hs hl hp hf =>
    obtain ⟨hrdBuf, hrdMode, hchannel⟩ := blockAfter_cases i b
    rw [hrdBuf, hrdMode]
    refine ⟨hbuf, hdiscard, ?_⟩
    obtain ⟨hphase, htime⟩ | ⟨hphase, ⟨k, -, htime⟩ | ⟨v, -, htime⟩⟩ := hchannel
    · rwa [hphase, htime]
    · simp [hphase, htime]
    · simp [hphase, htime]
  | opened hi hp hes =>
    simp only [hp, reduceCtorEq, iff_false] at htiming
    exact ⟨hbuf, hdiscard, by simp [htiming]⟩
  | closed hi hp hes => exact ⟨hbuf, hdiscard, by simp⟩

/-- A byte that ends no line fits the buffer or empties it (R122 to R124). -/
theorem consumeByte_quiet_keeps_inv {b : Byte} {s t : State}
    (hq : ¬(s.st.rdMode = .accumulate ∧ b = 0x0D)) (hinv : s.st.inv = true)
    (h : consumeByte b s = .next t) : t.st.inv = true := by
  rw [consumeByte_quiet hq] at h
  cases h
  obtain ⟨⟨hlen, hterm⟩, hdiscard, htiming⟩ := (Block.inv_iff _).mp hinv
  split
  · split
    · exact (Block.inv_iff _).mpr ⟨⟨hlen, hterm⟩, nofun, htiming⟩
    · exact hinv
  · rename_i hm
    have hacc : s.st.rdMode = .accumulate := by cases hmode : s.st.rdMode <;> simp_all
    have hb : 0x0D ≠ b := fun hb => hq ⟨hacc, hb.symm⟩
    split
    · exact (Block.inv_iff _).mpr ⟨⟨by simp, by simp⟩, fun _ => rfl, htiming⟩
    · rename_i hl
      have hroom : s.st.rdBuf.length + 1 ≤ 31 := by simp at hl; omega
      have happend : 0x0D ∉ s.st.rdBuf ++ [b] := by simpa using ⟨hterm, hb⟩
      exact (Block.inv_iff _).mpr ⟨⟨by simpa using hroom, happend⟩, fun h => absurd h hm, htiming⟩

/-- The state a line is dispatched in meets the invariant too. -/
theorem dispatching_inv {s : State} (h : s.st.inv = true) :
    s.dispatching.st.inv = true := by
  rw [Block.inv_iff] at h ⊢
  obtain ⟨-, -, htiming⟩ := h
  exact ⟨by simp [State.dispatching], fun _ => rfl, htiming⟩

/-! ## Output items (R95) -/

theorem successReply_mem_fixedItems (op : Opcode) : successReply op ∈ fixedItems := by
  cases op <;> decide

theorem reportTag_mem (f : Frame) : reportTag f ∈ ([0x74, 0x54, 0x72, 0x52] : List Byte) := by
  obtain ⟨id, ext, len, bytes | _⟩ := f <;> cases ext <;> simp [reportTag, Frame.rtr]

/-- The tag of a report begins no fixed item. -/
theorem encodeFrame_append_not_mem_fixedItems (f : Frame) (rest : Line) :
    encodeFrame f ++ rest ∉ fixedItems := by
  have htag : ∀ tag ∈ ([0x74, 0x54, 0x72, 0x52] : List Byte), ∀ item ∈ fixedItems,
      item.head? ≠ some tag := by decide
  exact fun hmem => htag _ (reportTag_mem f) _ hmem rfl

/-- A reported frame is one output item, and not a fixed one. -/
theorem reportFrame_item {f : Frame} (hv : f.valid = true) (s : State) :
    ∃ item : Line, (reportFrame f s).output = s.output ++ item ∧ IsItem item ∧
      item ∉ fixedItems := by
  rw [reportFrame_eq]
  cases s.st.tsEn with
  | false =>
    refine ⟨encodeFrame f ++ [Config.term], by simp, .inr ⟨f, hv, .inl rfl⟩, ?_⟩
    exact encodeFrame_append_not_mem_fixedItems f _
  | true =>
    refine ⟨encodeFrame f ++ stampText s.env.nextClock ++ [Config.term], by simp,
      .inr ⟨f, hv, .inr ⟨_, rfl⟩⟩, ?_⟩
    rw [List.append_assoc]
    exact encodeFrame_append_not_mem_fixedItems f _

/-! ## Phase changes (R168, R169) -/

/-- A command changes the phase only as R168 lists it. -/
theorem Wrote.phase_changed {i : Instr} {b c : Block} {es : List Event} (h : Wrote i b es c)
    (hne : c.phase ≠ b.phase) :
    (b.phase = .closed ∧ c.phase = .configured ∧
        ((∃ k, i = .preset (.good k) ∧ c.timing = .preset k) ∨
          ∃ v, i = .customTiming (.good v) ∧ c.timing = .custom v.b0 v.b1)) ∨
      (b.phase = .configured ∧ c.phase = .opened ∧ c.timing = b.timing ∧
        i = .openChannel (.good ()) ∧
        es = [.call (installCall b) .ok, .call .start .ok, .indPulse]) ∨
      (b.phase = .opened ∧ c.phase = .closed ∧ c.timing = .none ∧ i = .closeChannel (.good ()) ∧
        es = [.call .stop .ok, .call .uninstall .ok, .indPulse]) := by
  cases h with
  | nothing => exact absurd rfl hne
  | plain hs hl hp hf =>
    obtain ⟨-, -, ⟨hphase, -⟩ | ⟨hphase, hcmd⟩⟩ := blockAfter_cases i b
    · exact absurd hphase hne
    · rw [hphase] at hne
      refine .inl ⟨?_, hphase, hcmd⟩
      obtain ⟨k, rfl, -⟩ | ⟨v, rfl, -⟩ := hcmd
      · exact (of_decide_eq_true hp).resolve_right (Ne.symm hne)
      · exact (of_decide_eq_true hp).resolve_right (Ne.symm hne)
  | opened hi hp hes => exact .inr (.inl ⟨hp, rfl, rfl, hi, hes⟩)
  | closed hi hp hes => exact .inr (.inr ⟨hp, rfl, rfl, hi, hes⟩)

/-- A command that ends in `Open` leaves the timing. -/
theorem Wrote.timing_of_opened {i : Instr} {b c : Block} {es : List Event} (h : Wrote i b es c)
    (hc : c.phase = .opened) : c.timing = b.timing := by
  cases h with
  | nothing => rfl
  | plain hs hl hp hf =>
    obtain ⟨-, -, ⟨-, htiming⟩ | ⟨hphase, -⟩⟩ := blockAfter_cases i b
    · exact htiming
    · cases hphase.symm.trans hc
  | opened hi hp hes => rfl
  | closed hi hp hes => cases hc

/-- A byte that ends no line leaves the phase and the timing. -/
theorem consumeByte_quiet_channel {b : Byte} {s t : State}
    (hq : ¬(s.st.rdMode = .accumulate ∧ b = 0x0D)) (h : consumeByte b s = .next t) :
    t.st.phase = s.st.phase ∧ t.st.timing = s.st.timing := by
  obtain ⟨hst, -⟩ := consumeByte_quiet_next hq h
  rw [hst]
  exact ⟨rfl, rfl⟩

/-- A step that runs no command leaves the phase and the timing. -/
theorem Stepped.channel {s t : State} (h : Stepped s t) :
    (t.st.phase = s.st.phase ∧ t.st.timing = s.st.timing) ∨
      ∃ i es, s.env.nextStep = .consumeByte 0x0D ∧ s.st.rdMode = .accumulate ∧
        decode s.st.rdBuf = some i ∧ Ran i s.dispatching t es := by
  cases h with
  | quiet b hs hq ht => exact .inl (consumeByte_quiet_channel (s := s.scheduled) hq ht)
  | unknown hs hm hd ht => subst ht; exact .inl ⟨rfl, rfl⟩
  | command i es hs hm hd hr => exact .inr ⟨i, es, hs, hm, hd, hr⟩
  | polled hs ht =>
    obtain ⟨hst, -⟩ := poll_next ht
    rw [hst]
    exact .inl ⟨rfl, rfl⟩

end Sys2Proof.Machine

namespace Sys2Proof.Proofs

open Sys2Proof Sys2Proof.Machine Sys2Proof.Config

/-- Settles O49: each of the four ways of a step keeps the invariant. -/
theorem stepKeepsInvariant : Obligations.StepKeepsInvariant := by
  unfold Obligations.StepKeepsInvariant
  intro s t hinv h
  cases stepped_of_step h with
  | quiet b hs hq ht => exact consumeByte_quiet_keeps_inv (s := s.scheduled) hq hinv ht
  | unknown hs hm hd ht => subst ht; exact dispatching_inv hinv
  | command i es hs hm hd hr => exact hr.wrote.keeps_inv (dispatching_inv hinv)
  | polled hs ht =>
    obtain ⟨hst, -⟩ := poll_next ht
    rw [hst]
    exact hinv

/-- Settles O50: only a step that runs a command writes the phase or the timing, and the command's
writes are those of R168. -/
theorem phaseChangesOnlyByItsCommands : Obligations.PhaseChangesOnlyByItsCommands := by
  unfold Obligations.PhaseChangesOnlyByItsCommands
  intro s t h
  obtain ⟨hphase, htiming⟩ | ⟨i, es, hs, hm, hd, hr⟩ := (stepped_of_step h).channel
  · exact ⟨fun hne => absurd hphase hne, fun _ _ => htiming⟩
  · refine ⟨fun hne => ⟨hs, hm, ?_⟩, fun _ ho => hr.wrote.timing_of_opened ho⟩
    obtain ⟨hp, hq, ⟨k, rfl, htiming⟩ | ⟨v, rfl, htiming⟩⟩ | ⟨hp, hq, htiming, rfl, rfl⟩ |
      ⟨hp, hq, htiming, rfl, rfl⟩ := hr.wrote.phase_changed hne
    · exact .inl ⟨hp, hq, .inl ⟨k, hd, htiming⟩⟩
    · exact .inl ⟨hp, hq, .inr ⟨v, hd, htiming⟩⟩
    · exact .inr (.inl ⟨hp, hq, htiming, hd, hr.trace_eq⟩)
    · exact .inr (.inr ⟨hp, hq, htiming, hd, hr.trace_eq⟩)

/-- Settles O51: a command answers one fixed item (O28), an overflow and an unknown line the NACK, a
poll nothing or one report. -/
theorem everyStepEmitsAtMostOneItem : Obligations.EveryStepEmitsAtMostOneItem := by
  unfold Obligations.EveryStepEmitsAtMostOneItem
  intro s t h
  have hnack : IsItem [0x07] := .inl (by decide)
  cases stepped_of_step h with
  | quiet b hs hq ht =>
    obtain ⟨-, -, -, ⟨hout, -⟩ | ⟨hout, -⟩⟩ := consumeByte_quiet_next (s := s.scheduled) hq ht
    · exact ⟨[], by simpa using hout, .inl rfl, by simp [hs]⟩
    · exact ⟨[0x07], hout, .inr hnack, by simp [hs]⟩
  | unknown hs hm hd ht =>
    subst ht
    exact ⟨[0x07], rfl, .inr hnack, by simp [hs]⟩
  | command i es hs hm hd hr =>
    obtain ⟨hout, -⟩ | ⟨hout, -⟩ := hr.answer
    · exact ⟨[0x07], hout, .inr hnack, by simp [hs]⟩
    · exact ⟨_, hout, .inr (.inl (successReply_mem_fixedItems _)), by simp [hs]⟩
  | polled hs ht =>
    obtain ⟨-, -, -, ⟨hout, -⟩ | ⟨f, hv, -, -, rfl⟩⟩ := poll_next ht
    · exact ⟨[], by simpa using hout, .inl rfl, fun _ => by decide⟩
    · obtain ⟨item, hout, hitem, hfixed⟩ := reportFrame_item hv (s.scheduled.callReceive).2
      exact ⟨item, hout, .inr hitem, fun _ => hfixed⟩

end Sys2Proof.Proofs
end

section
/-! PROOFS, family other: digits, refusals of the decoder, and report text. What a send line decodes
to is read off its four parts (opcode, identifier, length digit, tail); each refusal names the first
check that fails, in the order of R263. -/

namespace Sys2Proof

/-! ## Digits -/

theorem hexDigit?_eq_some (c : Byte) (v : Nat) :
    hexDigit? c = some v ↔
      (v ≤ 9 ∧ c.toNat = 0x30 + v) ∨ (10 ≤ v ∧ v ≤ 15 ∧ c.toNat + 10 = 0x41 + v) ∨
        (10 ≤ v ∧ v ≤ 15 ∧ c.toNat + 10 = 0x61 + v) := by
  unfold hexDigit?
  split_ifs <;> simp only [Option.some.injEq, false_iff] <;> omega

theorem decDigit?_eq_some (c : Byte) (v : Nat) :
    decDigit? c = some v ↔ v ≤ 9 ∧ c.toNat = 0x30 + v := by
  unfold decDigit?
  split_ifs <;> simp only [Option.some.injEq, false_iff] <;> omega

theorem hexValFrom_eq_none_iff (acc : Nat) (s : Line) :
    hexValFrom acc s = none ↔ ∃ c ∈ s, hexDigit? c = none := by
  induction s generalizing acc with
  | nil => simp [hexValFrom]
  | cons c s ih => cases hc : hexDigit? c <;> simp [hexValFrom, hc, ih]

/-- `HexVal` is undefined exactly on a string with a bad digit (R84). -/
theorem hexVal?_eq_none_iff (s : Line) : hexVal? s = none ↔ ∃ c ∈ s, hexDigit? c = none :=
  hexValFrom_eq_none_iff 0 s

theorem hexBytes?_cons_cons_eq_none {a b : Byte} {rest : Line} :
    hexBytes? (a :: b :: rest) = none ↔ hexVal? [a, b] = none ∨ hexBytes? rest = none := by
  rw [hexBytes?]
  cases hexVal? [a, b] <;> cases hexBytes? rest <;> simp

/-- Two-digit groups are undefined exactly when one of their digits is bad (R61, R84). -/
theorem hexBytes?_eq_none_iff {n : Nat} {l : Line} (h : l.length = 2 * n) :
    hexBytes? l = none ↔ ∃ c ∈ l, hexDigit? c = none := by
  induction n generalizing l with
  | zero =>
    obtain rfl := List.length_eq_zero_iff.mp h
    simp [hexBytes?]
  | succ n ih =>
    match l with
    | [] => simp at h
    | [_] => simp at h; omega
    | a :: b :: rest =>
      have hrest := ih (l := rest) (by simp at h; omega)
      rw [hexBytes?_cons_cons_eq_none, hexVal?_eq_none_iff, hrest]
      simp [or_assoc]

/-! ## The first byte -/

theorem opcodeOf?_eq_none (b : Byte) : opcodeOf? b = none ↔
    b ∉ ([0x4F, 0x43, 0x74, 0x54, 0x72, 0x52, 0x5A, 0x4D, 0x6D, 0x73, 0x53, 0x46, 0x56, 0x4E] :
      List Byte) := by
  simp only [opcodeOf?, opcodes, List.find?_eq_none, Opcode.byte, beq_iff_eq, List.mem_cons,
    not_or, eq_comm (a := b)]
  simp

theorem decode_cons_eq_none (b : Byte) (rest : Line) :
    decode (b :: rest) = none ↔ opcodeOf? b = none := by
  simp [decode]

/-! ## Refusals of a fixed format -/

theorem exactLength_bad {f : Format} {line : Line} (h : line.length ≠ f.fixedPart) :
    exactLength f line = .bad .malformedField := by
  simp [exactLength, require, h]

/-- A command that is no send refuses every line of another length first (R87). -/
theorem fieldError?_of_length_ne {op : Opcode} {line : Line} (hs : Machine.isSend op = false)
    (h : line.length ≠ op.format.fixedPart) :
    Machine.fieldError? (decodeAs op line) = some .malformedField := by
  have hbad := exactLength_bad h
  cases op <;> simp only [Machine.isSend, Bool.true_eq_false] at hs <;>
    simp only [Opcode.format] at hbad <;>
    simp [decodeAs, Machine.fieldError?, decodeBare, decodeTimestamp, decodePreset, decodeDigit,
      decodeWord32, decodeBtr, hbad, Operands.bind, Machine.badKind?]

theorem decodeDigit_pair (b c : Byte) : decodeDigit [b, c] = orMalformed (decDigit? c) := rfl

theorem decodeWord32_of_digits (c : Byte) {digits : Line} (h : digits.length = 8) :
    decodeWord32 (c :: digits) =
      (orMalformed (hexVal? digits)).bind fun w => .good (BitVec.ofNat 32 w) := by
  rw [decodeWord32, field_one c h]
  simp [exactLength, require, Format.fixedPart, h, Operands.bind]

theorem decodeBtr_of_digits (c : Byte) {d0 d1 : Line} (h0 : d0.length = 2) (h1 : d1.length = 2) :
    decodeBtr (c :: (d0 ++ d1)) =
      (orMalformed (hexVal? d0)).bind fun b0 => (orMalformed (hexVal? d1)).bind fun b1 =>
        .good { b0 := BitVec.ofNat 8 b0, b1 := BitVec.ofNat 8 b1 } := by
  have hfield : field (c :: (d0 ++ d1)) 3 2 = d1 := by
    obtain ⟨a, b, rfl⟩ := List.length_eq_two.mp h0
    simp [field, List.take_of_length_le h1.le]
  rw [decodeBtr, field_one_append c h0, hfield]
  simp [exactLength, require, Format.fixedPart, h0, h1, Operands.bind]

/-! ## Refusals of a send line -/

/-- A line shorter than the header of its send format (R87). -/
theorem decodeHeader_of_short {ext : Bool} {line : Line} (h : line.length < idDigits ext + 2) :
    decodeHeader ext line = .bad .malformedField := by
  simp [decodeHeader, require, Nat.not_le.mpr h, Operands.bind]

theorem decodeData_of_header_bad {ext : Bool} {line : Line} {k : NackKind}
    (h : decodeHeader ext line = .bad k) : decodeData ext line = .bad k := by
  rw [decodeData, h, Operands.bind]

theorem decodeRemote_of_header_bad {ext : Bool} {line : Line} {k : NackKind}
    (h : decodeHeader ext line = .bad k) : decodeRemote ext line = .bad k := by
  rw [decodeRemote, h, Operands.bind]

theorem fieldError?_of_short_send {op : Opcode} {line : Line} (hs : Machine.isSend op = true)
    (h : line.length < op.format.fixedPart) :
    Machine.fieldError? (decodeAs op line) = some .malformedField := by
  cases op <;> simp only [Machine.isSend, Bool.false_eq_true] at hs
  case sendStd | sendExt =>
    exact congrArg Machine.badKind? (decodeData_of_header_bad (decodeHeader_of_short h))
  case remoteStd | remoteExt =>
    exact congrArg Machine.badKind? (decodeRemote_of_header_bad (decodeHeader_of_short h))

section
variable {ext : Bool} {idText : Line} (c d : Byte) (tail : Line)
  (hl : idText.length = idDigits ext)

include hl

/-- The header checks of a line with an identifier field and a length byte: the digits, then the
bounds (R263 steps 2 and 3). -/
theorem decodeHeader_of_parts :
    decodeHeader ext (c :: (idText ++ d :: tail)) =
      (orMalformed (hexVal? idText)).bind fun id => (orMalformed (decDigit? d)).bind fun len =>
        (require (decide (id ≤ idMax ext)) .outOfRange).bind fun _ =>
          (require (decide (len ≤ 8)) .outOfRange).bind fun _ =>
            .good { id := id, len := len } := by
  have hlen : idDigits ext + 2 ≤ (c :: (idText ++ d :: tail)).length := by simp [hl]
  have hdigit : digitAt (c :: (idText ++ d :: tail)) (idDigits ext + 1) =
      orMalformed (decDigit? d) := by
    simp [digitAt, ← hl]
  rw [decodeHeader, field_one_append c hl, hdigit]
  simp only [hlen, decide_true, require, if_true, Operands.bind]

theorem decodeHeader_malformed (h : hexVal? idText = none ∨ decDigit? d = none) :
    decodeHeader ext (c :: (idText ++ d :: tail)) = .bad .malformedField := by
  rw [decodeHeader_of_parts c d tail hl]
  cases hid : hexVal? idText with
  | none => rfl
  | some id =>
    have hd : decDigit? d = none := by simpa [hid] using h
    rw [hd]
    rfl

theorem decodeHeader_outOfRange {id len : Nat} (hid : hexVal? idText = some id)
    (hd : decDigit? d = some len) (h : idMax ext < id ∨ 8 < len) :
    decodeHeader ext (c :: (idText ++ d :: tail)) = .bad .outOfRange := by
  rw [decodeHeader_of_parts c d tail hl, hid, hd]
  simp only [orMalformed, Operands.bind, require]
  by_cases hb : id ≤ idMax ext
  · simp [hb, Nat.not_le.mpr (h.resolve_left (Nat.not_lt.mpr hb))]
  · simp [hb]

theorem decodeHeader_good {id len : Nat} (hid : hexVal? idText = some id)
    (hd : decDigit? d = some len) (hmax : id ≤ idMax ext) (hlen : len ≤ 8) :
    decodeHeader ext (c :: (idText ++ d :: tail)) = .good { id := id, len := len } := by
  rw [decodeHeader_of_parts c d tail hl, hid, hd]
  simp [orMalformed, Operands.bind, require, hmax, hlen]

/-- The data checks after an accepted header: the count, then the digits (R263 steps 4 and 5). -/
theorem decodeData_of_parts {h : RemoteArgs}
    (hh : decodeHeader ext (c :: (idText ++ d :: tail)) = .good h) :
    decodeData ext (c :: (idText ++ d :: tail)) =
      (require (tail.length == 2 * h.len) .lengthMismatch).bind fun _ =>
        (orMalformed (hexBytes? tail)).bind fun data =>
          .good { id := h.id, len := h.len, data := data } := by
  have hcount : (c :: (idText ++ d :: tail)).length - (idDigits ext + 2) = tail.length := by
    simp [hl]; omega
  have hdrop : (c :: (idText ++ d :: tail)).drop (idDigits ext + 2) = tail := by
    simp [← hl]
  rw [decodeData, hh, hcount, hdrop]
  rfl

/-- A remote send allows nothing after its header. -/
theorem decodeRemote_of_parts {h : RemoteArgs}
    (hh : decodeHeader ext (c :: (idText ++ d :: tail)) = .good h) :
    decodeRemote ext (c :: (idText ++ d :: tail)) =
      if tail = [] then .good h else .bad .malformedField := by
  rw [decodeRemote, hh]
  simp only [Operands.bind, require]
  cases tail <;> simp [hl]

end

/-! ## Lines as the statements write them -/

theorem decode_of_decodeAs {op : Opcode} {rest : Line} {i : Instr}
    (h : decodeAs op (op.byte :: rest) = i) : decode (op.byte :: rest) = some i := by
  rw [decode_opcode, h]

theorem decodeAs_of_decode {line : Line} {i : Instr} (h : decode line = some i) :
    decodeAs i.opcode line = i := by
  obtain ⟨_, _, hi⟩ := decode_eq_some.mp h
  exact hi

/-- A bad header refuses the data send and the remote send alike. -/
theorem decode_send_of_header_bad {ext : Bool} {rest : Line} {k : NackKind}
    (h : ∀ b, decodeHeader ext (b :: rest) = .bad k) :
    decode ((if ext then 0x54 else 0x74) :: rest) =
        some (if ext then .sendExt (.bad k) else .sendStd (.bad k)) ∧
      decode ((if ext then 0x52 else 0x72) :: rest) =
        some (if ext then .remoteExt (.bad k) else .remoteStd (.bad k)) := by
  cases ext
  · exact ⟨decode_of_decodeAs (op := .sendStd) (congrArg _ (decodeData_of_header_bad (h _))),
      decode_of_decodeAs (op := .remoteStd) (congrArg _ (decodeRemote_of_header_bad (h _)))⟩
  · exact ⟨decode_of_decodeAs (op := .sendExt) (congrArg _ (decodeData_of_header_bad (h _))),
      decode_of_decodeAs (op := .remoteExt) (congrArg _ (decodeRemote_of_header_bad (h _)))⟩

theorem decodeBtr_malformed (c : Byte) {digits : Line} (hl : digits.length = 4)
    (hbad : ∃ c ∈ digits, hexDigit? c = none) :
    decodeBtr (c :: digits) = .bad .malformedField := by
  obtain ⟨d0, d1, rfl, h0, h1⟩ : ∃ d0 d1, digits = d0 ++ d1 ∧ d0.length = 2 ∧ d1.length = 2 :=
    ⟨_, _, (List.take_append_drop 2 digits).symm, by simp [hl], by simp [hl]⟩
  have hnone : hexVal? d0 = none ∨ hexVal? d1 = none := by
    simpa [hexVal?_eq_none_iff, or_and_right, exists_or] using hbad
  rw [decodeBtr_of_digits c h0 h1]
  cases hv : hexVal? d0 with
  | none => rfl
  | some b0 => rw [hnone.resolve_left (by simp [hv])]; rfl

theorem decodeTimestamp_pair (b : Byte) {c : Byte} {n : Nat} (h : decDigit? c = some n) :
    decodeTimestamp [b, c] = if n ≤ 1 then .good (n == 1) else .bad .outOfRange := by
  rw [decodeTimestamp, decodeDigit_pair, h]
  by_cases hn : n ≤ 1 <;> simp [orMalformed, require, Operands.bind, hn]

theorem decodePreset_pair (b : Byte) {c : Byte} {k : Nat} (h : decDigit? c = some k) :
    decodePreset [b, c] = if h : k < 9 then .good ⟨k, h⟩ else .bad .outOfRange := by
  rw [decodePreset, decodeDigit_pair, h]
  rfl

/-- An accepted data send: its identifier and its data bytes, whole and in bounds (R89). -/
theorem decodeData_fields {ext : Bool} {line : Line} {a : DataArgs}
    (h : decodeData ext line = .good a) :
    hexVal? (field line 1 (idDigits ext)) = some a.id ∧ a.id ≤ idMax ext ∧
      ∀ j, (hj : j < a.data.length) →
        hexVal? (field line (idDigits ext + 2 + 2 * j) 2) = some a.data[j].toNat := by
  obtain ⟨hheader, -⟩ := decodeData_eq_good.mp h
  obtain ⟨-, hid, -, hmax, -⟩ := decodeHeader_eq_good.mp hheader
  exact ⟨hid, hmax, decodeData_payload h⟩

/-- An accepted remote send: its identifier, whole and in bounds (R89). -/
theorem decodeRemote_fields {ext : Bool} {line : Line} {a : RemoteArgs}
    (h : decodeRemote ext line = .good a) :
    hexVal? (field line 1 (idDigits ext)) = some a.id ∧ a.id ≤ idMax ext := by
  obtain ⟨hheader, -⟩ := decodeRemote_eq_good.mp h
  obtain ⟨-, hid, -, hmax, -⟩ := decodeHeader_eq_good.mp hheader
  exact ⟨hid, hmax⟩

end Sys2Proof

namespace Sys2Proof.Machine

/-! ## Report text -/

/-- A hex digit text holds neither CR nor BEL. -/
theorem no_control_of_mem_hexText {v n : Nat} {c : Byte} (h : c ∈ hexText v n) :
    c ≠ 0x0D ∧ c ≠ 0x07 := by
  obtain ⟨d, hd, rfl⟩ := mem_hexText h
  exact hexDigitByte_ne_control hd

theorem reportTag_no_control (f : Frame) : reportTag f ≠ 0x0D ∧ reportTag f ≠ 0x07 := by
  have key : ∀ tag ∈ ([0x74, 0x54, 0x72, 0x52] : List Byte), tag ≠ 0x0D ∧ tag ≠ 0x07 := by decide
  exact key _ (reportTag_mem f)

/-- The report text holds neither CR nor BEL. -/
theorem no_control_of_mem_encodeFrame {f : Frame} {c : Byte} (h : c ∈ encodeFrame f) :
    c ≠ 0x0D ∧ c ≠ 0x07 := by
  simp only [encodeFrame, List.mem_cons, List.mem_append] at h
  obtain rfl | (h | h) | h := h
  · exact reportTag_no_control f
  · exact no_control_of_mem_hexText h
  · exact no_control_of_mem_hexText h
  · obtain ⟨id, ext, len, bytes | _⟩ := f
    · obtain ⟨b, -, hb⟩ := List.mem_flatMap.mp h
      exact no_control_of_mem_hexText hb
    · cases h

/-- What the first byte `b` of an output item tells of it (R96). -/
def FirstByteTells (b : Byte) (item : Line) : Prop :=
  (itemKind? b).isSome = true ∧
    (itemKind? b = some .ack ↔ item = [0x0D]) ∧
    (itemKind? b = some .nack ↔ item = [0x07]) ∧
    (itemKind? b = some .sendOk ↔ item = [0x7A, 0x0D] ∨ item = [0x5A, 0x0D]) ∧
    (itemKind? b = some .queryReply ↔
      item = [0x46, 0x30, 0x30, 0x0D] ∨ item = [0x56, 0x31, 0x32, 0x33, 0x34, 0x0D] ∨
        item = [0x4E, 0x32, 0x32, 0x30, 0x38, 0x0D]) ∧
    (itemKind? b = some .report ↔ item ∉ fixedItems)

/-- R96 of one output item: what its first byte tells, and that no control byte stands before its
end. -/
def SelfDelimiting (item : Line) : Prop :=
  (∃ (b : Byte) (rest : Line), item = b :: rest ∧ FirstByteTells b item) ∧
    ∃ (body : Line) (last : Byte), item = body ++ [last] ∧ 0x0D ∉ body ∧ 0x07 ∉ body ∧
      (last = 0x0D ∨ item = [0x07])

theorem selfDelimiting_of_fixed {item : Line} (h : item ∈ fixedItems) : SelfDelimiting item := by
  simp only [fixedItems, List.mem_cons, List.not_mem_nil, or_false] at h
  obtain rfl | rfl | rfl | rfl | rfl | rfl | rfl := h <;>
    exact ⟨⟨_, _, rfl, by unfold FirstByteTells; decide⟩, _, _,
      (List.dropLast_concat_getLast (by decide)).symm, by decide⟩

theorem firstByteTells_of_report {b : Byte} {item : Line} (hb : itemKind? b = some .report)
    (hi : item ∉ fixedItems) : FirstByteTells b item := by
  have hne := hi
  simp only [fixedItems, List.mem_cons, List.not_mem_nil, or_false, not_or] at hne
  obtain ⟨hack, hnack, hz, hZ, hF, hV, hN⟩ := hne
  exact ⟨by rw [hb]; rfl, iff_of_false (by simp [hb]) hack, iff_of_false (by simp [hb]) hnack,
    iff_of_false (by simp [hb]) (not_or.mpr ⟨hz, hZ⟩),
    iff_of_false (by simp [hb]) (not_or.mpr ⟨hF, not_or.mpr ⟨hV, hN⟩⟩), iff_of_true hb hi⟩

theorem itemKind?_reportTag (f : Frame) : itemKind? (reportTag f) = some .report := by
  have key : ∀ tag ∈ ([0x74, 0x54, 0x72, 0x52] : List Byte), itemKind? tag = some .report := by
    decide
  exact key _ (reportTag_mem f)

/-- A report, with or without timestamp: its tag tells a report, and its text holds no control byte.
-/
theorem selfDelimiting_of_report (f : Frame) {stamp : Line}
    (hstamp : ∀ c ∈ stamp, c ≠ 0x0D ∧ c ≠ 0x07) :
    SelfDelimiting (encodeFrame f ++ stamp ++ [0x0D]) := by
  have hbody : ∀ c ∈ encodeFrame f ++ stamp, c ≠ 0x0D ∧ c ≠ 0x07 := fun c hc =>
    (List.mem_append.mp hc).elim no_control_of_mem_encodeFrame (hstamp c)
  have hfixed : encodeFrame f ++ stamp ++ [0x0D] ∉ fixedItems := by
    rw [List.append_assoc]
    exact encodeFrame_append_not_mem_fixedItems f _
  exact ⟨⟨reportTag f, _, rfl, firstByteTells_of_report (itemKind?_reportTag f) hfixed⟩, _, _, rfl,
    fun h => (hbody _ h).1 rfl, fun h => (hbody _ h).2 rfl, .inl rfl⟩

end Sys2Proof.Machine

namespace Sys2Proof.Proofs

open Sys2Proof Sys2Proof.Machine Sys2Proof.Config

/-- Settles O58, by the ranges of the two digit functions. -/
theorem digitBytesAndValues : Obligations.DigitBytesAndValues := by
  unfold Obligations.DigitBytesAndValues
  exact fun c v => ⟨hexDigit?_eq_some c v, decDigit?_eq_some c v⟩

/-- Settles O3: each byte of a hex text is a written digit, and reading inverts writing. -/
theorem hexTextReadsBack : Obligations.HexTextReadsBack := by
  unfold Obligations.HexTextReadsBack
  refine fun v n hv => ⟨hexText_length v n, fun c hc => ?_, hexVal?_hexText hv⟩
  obtain ⟨d, hd, rfl⟩ := mem_hexText hc
  exact hexDigitByte_upper hd

/-- Settles O4: the decoder looks up the first byte and runs the decoder of its opcode. -/
theorem firstByteSelectsCommand : Obligations.FirstByteSelectsCommand := by
  unfold Obligations.FirstByteSelectsCommand
  refine ⟨fun rest => ?_, fun b rest => (decode_cons_eq_none b rest).trans (opcodeOf?_eq_none b)⟩
  exact ⟨⟨_, decode_opcode .openChannel rest⟩, ⟨_, decode_opcode .closeChannel rest⟩,
    ⟨_, decode_opcode .sendStd rest⟩, ⟨_, decode_opcode .sendExt rest⟩,
    ⟨_, decode_opcode .remoteStd rest⟩, ⟨_, decode_opcode .remoteExt rest⟩,
    ⟨_, decode_opcode .timestamp rest⟩, ⟨_, decode_opcode .setCode rest⟩,
    ⟨_, decode_opcode .setMask rest⟩, ⟨_, decode_opcode .customTiming rest⟩,
    ⟨_, decode_opcode .preset rest⟩, ⟨_, decode_opcode .status rest⟩,
    ⟨_, decode_opcode .version rest⟩, ⟨_, decode_opcode .serial rest⟩⟩

/-- Settles O8: the length is the first check of every format. -/
theorem wrongLengthIsMalformed : Obligations.WrongLengthIsMalformed := by
  unfold Obligations.WrongLengthIsMalformed
  refine fun op line => ⟨fun h => ?_, fun h hs => fieldError?_of_length_ne hs h.ne'⟩
  cases hs : isSend op with
  | false => exact fieldError?_of_length_ne hs h.ne
  | true => exact fieldError?_of_short_send hs h

/-- Settles O1: the decoder evaluated on each written line. -/
theorem writtenLinesDecode : Obligations.WrittenLinesDecode := by
  unfold Obligations.WrittenLinesDecode
  decide

/-- Settles O46: the report's definition at each kind of frame. -/
theorem reportTextOfEachKind : Obligations.ReportTextOfEachKind := by
  unfold Obligations.ReportTextOfEachKind
  intro id len bytes
  simp [encodeFrame, reportTag, Frame.rtr, reportData, List.flatMap]

/-- Settles O47: the report is the text of a well-formed command, at most 26 bytes long, and
timestamp and terminator add five. -/
theorem reportIsAtMost31Bytes : Obligations.ReportIsAtMost31Bytes := by
  unfold Obligations.ReportIsAtMost31Bytes
  intro f ms hv
  obtain ⟨hl, -⟩ := encode_fits ((sendOf_wellFormed f).trans hv)
  rw [encode_sendOf (len_le_of_valid hv)] at hl
  simp [stampText]
  omega

/-- Settles O52: the fixed items one by one, and the reports by their tag and digits. -/
theorem itemsAreSelfDelimiting : Obligations.ItemsAreSelfDelimiting := by
  unfold Obligations.ItemsAreSelfDelimiting
  rintro item (h | ⟨f, -, rfl | ⟨ms, rfl⟩⟩)
  · exact selfDelimiting_of_fixed h
  · have hplain := selfDelimiting_of_report f (stamp := []) nofun
    rwa [List.append_nil] at hplain
  · exact selfDelimiting_of_report f fun c hc => no_control_of_mem_hexText hc

/-- Settles O7: the header's refusals, then the data count and digits, or the empty tail. -/
theorem sendLineRefusalKinds : Obligations.SendLineRefusalKinds := by
  unfold Obligations.SendLineRefusalKinds
  intro ext idText id d tail hl hid hmax data remote error
  have hdata : error data = 
      badKind? (decodeData ext (data.byte :: (idText ++ d :: tail))) := by
    simp only [error, data, decode_opcode]
    cases ext <;> rfl
  have hremote : error remote = 
      badKind? (decodeRemote ext (remote.byte :: (idText ++ d :: tail))) := by
    simp only [error, remote, decode_opcode]
    cases ext <;> rfl
  rw [hdata, hremote]
  refine ⟨fun hd => ?_, fun hd => ?_, fun len hd hlen =>
    ⟨fun hcount => ?_, fun hcount hbad => ?_, fun htail => ?_⟩⟩
  · rw [decodeData_of_header_bad (decodeHeader_malformed _ d tail hl (.inr hd)),
      decodeRemote_of_header_bad (decodeHeader_malformed _ d tail hl (.inr hd))]
    exact ⟨rfl, rfl⟩
  · have hnine : decDigit? d = some 9 := by rw [hd]; rfl
    rw [decodeData_of_header_bad (decodeHeader_outOfRange _ d tail hl hid hnine (.inr (by decide))),
      decodeRemote_of_header_bad (decodeHeader_outOfRange _ d tail hl hid hnine (.inr (by decide)))]
    exact ⟨rfl, rfl⟩
  · rw [decodeData_of_parts _ d tail hl (decodeHeader_good _ d tail hl hid hd hmax hlen)]
    simp [require, hcount, Operands.bind, badKind?]
  · rw [decodeData_of_parts _ d tail hl (decodeHeader_good _ d tail hl hid hd hmax hlen),
      (hexBytes?_eq_none_iff hcount).mpr hbad]
    simp [require, hcount, orMalformed, Operands.bind, badKind?]
  · rw [decodeRemote_of_parts _ d tail hl (decodeHeader_good _ d tail hl hid hd hmax hlen),
      if_neg htail]
    rfl

/-- Settles O59: each digit field's first check, and the bounds of the two digit commands. -/
theorem digitFieldsRefuseByKind : Obligations.DigitFieldsRefuseByKind := by
  unfold Obligations.DigitFieldsRefuseByKind
  refine ⟨fun ext idText d tail hl hbad => ?_, fun digits hl hbad => ?_, fun digits hl hbad => ?_,
    fun c hc => ?_, fun c n hc => ⟨fun hn => ?_, fun hn => ?_, fun hn => ?_, fun hn => ?_⟩⟩
  · have hheader : ∀ b, decodeHeader ext (b :: (idText ++ d :: tail)) = .bad .malformedField :=
      fun b => decodeHeader_malformed b d tail hl (hbad.imp_left (hexVal?_eq_none_iff idText).mpr)
    exact decode_send_of_header_bad hheader
  · have hword : ∀ b, decodeWord32 (b :: digits) = .bad .malformedField := fun b => by
      rw [decodeWord32_of_digits b hl, (hexVal?_eq_none_iff digits).mpr hbad]
      rfl
    exact ⟨decode_of_decodeAs (op := .setCode) (congrArg _ (hword _)),
      decode_of_decodeAs (op := .setMask) (congrArg _ (hword _))⟩
  · refine decode_of_decodeAs (op := .customTiming) (congrArg Instr.customTiming ?_)
    exact decodeBtr_malformed _ hl hbad
  · exact ⟨decode_of_decodeAs (op := .timestamp) (congrArg Instr.timestamp (by
        rw [decodeTimestamp, decodeDigit_pair, hc]; rfl)),
      decode_of_decodeAs (op := .preset) (congrArg Instr.preset (by
        rw [decodePreset, decodeDigit_pair, hc]; rfl))⟩
  · exact decode_of_decodeAs (op := .timestamp) (congrArg Instr.timestamp (by
      rw [decodeTimestamp_pair _ hc, if_pos hn]))
  · exact decode_of_decodeAs (op := .timestamp) (congrArg Instr.timestamp (by
      rw [decodeTimestamp_pair _ hc, if_neg (by omega)]))
  · exact decode_of_decodeAs (op := .preset) (congrArg Instr.preset (by
      rw [decodePreset_pair _ hc, dif_pos hn]))
  · exact decode_of_decodeAs (op := .preset) (congrArg Instr.preset (by
      rw [decodePreset_pair _ hc, dif_neg (by omega)]))

/-- Settles O5: what the accepting decoders say of the fields, and the four parts of a send line. -/
theorem fieldValuesAreWholeOrRefused : Obligations.FieldValuesAreWholeOrRefused := by
  unfold Obligations.FieldValuesAreWholeOrRefused
  refine ⟨fun line a h => ?_, fun line a h => ?_, fun line a h => ?_, fun line a h => ?_,
    fun line w h => ?_, fun line w h => ?_, fun line v h => ?_, fun digits w hl hw => ?_,
    fun d0 d1 b0 b1 hl0 hl1 hb0 hb1 => ?_,
    fun ext idText id d len tail hl hid hmax hd hlen => ⟨fun hcount hgood => ?_, ?_⟩,
    fun idText id d tail hl hid hmax hd => ?_, fun idText id d tail hl hid hmax hd => ?_⟩
  · exact decodeData_fields (Instr.sendStd.inj (decodeAs_of_decode h))
  · exact decodeData_fields (Instr.sendExt.inj (decodeAs_of_decode h))
  · exact decodeRemote_fields (Instr.remoteStd.inj (decodeAs_of_decode h))
  · exact decodeRemote_fields (Instr.remoteExt.inj (decodeAs_of_decode h))
  · exact (decodeWord32_eq_good.mp (Instr.setCode.inj (decodeAs_of_decode h))).2
  · exact (decodeWord32_eq_good.mp (Instr.setMask.inj (decodeAs_of_decode h))).2
  · exact (decodeBtr_eq_good.mp (Instr.customTiming.inj (decodeAs_of_decode h))).2
  · have hword : ∀ b, decodeWord32 (b :: digits) = .good (BitVec.ofNat 32 w) := fun b => by
      rw [decodeWord32_of_digits b hl, hw]
      rfl
    exact ⟨decode_of_decodeAs (op := .setCode) (congrArg _ (hword _)),
      decode_of_decodeAs (op := .setMask) (congrArg _ (hword _))⟩
  · refine decode_of_decodeAs (op := .customTiming) (congrArg Instr.customTiming ?_)
    rw [decodeBtr_of_digits _ hl0 hl1, hb0, hb1]
    rfl
  · have hbytes : hexBytes? tail ≠ none := fun hnone => by
      obtain ⟨c, hc, hbad⟩ := (hexBytes?_eq_none_iff hcount).mp hnone
      exact hgood c hc hbad
    obtain ⟨data, hdata⟩ := Option.ne_none_iff_exists'.mp hbytes
    have haccept : ∀ b,
        decodeData ext (b :: (idText ++ d :: tail)) = .good ⟨id, len, data⟩ := fun b => by
      rw [decodeData_of_parts b d tail hl (decodeHeader_good b d tail hl hid hd hmax hlen), hdata]
      simp [require, hcount, orMalformed, Operands.bind]
    refine ⟨data, ?_⟩
    cases ext
    · exact decode_of_decodeAs (op := .sendStd) (congrArg _ (haccept _))
    · exact decode_of_decodeAs (op := .sendExt) (congrArg _ (haccept _))
  · have haccept : ∀ b, decodeRemote ext (b :: (idText ++ [d])) = .good ⟨id, len⟩ := fun b => by
      rw [decodeRemote_of_parts b d [] hl (decodeHeader_good b d [] hl hid hd hmax hlen),
        if_pos rfl]
    cases ext
    · exact decode_of_decodeAs (op := .remoteStd) (congrArg _ (haccept _))
    · exact decode_of_decodeAs (op := .remoteExt) (congrArg _ (haccept _))
  · obtain ⟨len, hlen⟩ := Option.ne_none_iff_exists'.mp hd
    exact decode_send_of_header_bad (ext := false) fun b =>
      decodeHeader_outOfRange b d tail hl hid hlen (.inl hmax)
  · obtain ⟨len, hlen⟩ := Option.ne_none_iff_exists'.mp hd
    exact decode_send_of_header_bad (ext := true) fun b =>
      decodeHeader_outOfRange b d tail hl hid hlen (.inl hmax)

end Sys2Proof.Proofs
end

section
/-! PROOFS, family other: the commands one by one, and the error kinds. A command's next state is
the equation of its class (`exec_of_plain`, `transmitFrame_eq`, `execOpenChannel_of_legal`) at its
operands. -/

namespace Sys2Proof

/-! ## Error kinds of the field checks -/

/-- Operands whose error kind, if they are bad, is one of `ks`. -/
def Operands.KindIn {α : Type} (ks : List NackKind) (a : Operands α) : Prop :=
  ∀ k, a = .bad k → k ∈ ks

theorem kindIn_good {α : Type} (ks : List NackKind) (v : α) : (Operands.good v).KindIn ks :=
  fun _ h => nomatch h

theorem kindIn_bad {α : Type} {ks : List NackKind} {k : NackKind} (h : k ∈ ks) :
    (Operands.bad k : Operands α).KindIn ks := by
  rintro _ ⟨⟩
  exact h

theorem kindIn_bind {α β : Type} {ks : List NackKind} {a : Operands α} {f : α → Operands β}
    (ha : a.KindIn ks) (hf : ∀ v, (f v).KindIn ks) : (a.bind f).KindIn ks := by
  cases a with
  | good v => exact hf v
  | bad k => exact kindIn_bad (ha k rfl)

theorem kindIn_require {ks : List NackKind} {k : NackKind} (h : k ∈ ks) (ok : Bool) :
    (require ok k).KindIn ks := by
  cases ok
  · exact kindIn_bad h
  · exact kindIn_good ks ()

section
variable {ks : List NackKind} (hm : .malformedField ∈ ks)
include hm

theorem kindIn_orMalformed {α : Type} (v : Option α) : (orMalformed v).KindIn ks := by
  cases v with
  | none => exact kindIn_bad hm
  | some v => exact kindIn_good ks v

theorem kindIn_decodeBare (line : Line) : (decodeBare line).KindIn ks := kindIn_require hm _

theorem kindIn_decodeDigit (line : Line) : (decodeDigit line).KindIn ks :=
  kindIn_bind (kindIn_require hm _) fun _ => kindIn_orMalformed hm _

theorem kindIn_decodeWord32 (line : Line) : (decodeWord32 line).KindIn ks :=
  kindIn_bind (kindIn_require hm _) fun _ => kindIn_bind (kindIn_orMalformed hm _) fun _ =>
    kindIn_good ks _

theorem kindIn_decodeBtr (line : Line) : (decodeBtr line).KindIn ks :=
  kindIn_bind (kindIn_require hm _) fun _ => kindIn_bind (kindIn_orMalformed hm _) fun _ =>
    kindIn_bind (kindIn_orMalformed hm _) fun _ => kindIn_good ks _

variable (hr : .outOfRange ∈ ks)
include hr

theorem kindIn_decodeTimestamp (line : Line) : (decodeTimestamp line).KindIn ks :=
  kindIn_bind (kindIn_decodeDigit hm line) fun _ => kindIn_bind (kindIn_require hr _) fun _ =>
    kindIn_good ks _

theorem kindIn_decodePreset (line : Line) : (decodePreset line).KindIn ks := by
  refine kindIn_bind (kindIn_decodeDigit hm line) fun k => ?_
  split
  · exact kindIn_good ks _
  · exact kindIn_bad hr

theorem kindIn_decodeHeader (ext : Bool) (line : Line) : (decodeHeader ext line).KindIn ks :=
  kindIn_bind (kindIn_require hm _) fun _ => kindIn_bind (kindIn_orMalformed hm _) fun _ =>
    kindIn_bind (kindIn_orMalformed hm _) fun _ => kindIn_bind (kindIn_require hr _) fun _ =>
      kindIn_bind (kindIn_require hr _) fun _ => kindIn_good ks _

theorem kindIn_decodeRemote (ext : Bool) (line : Line) : (decodeRemote ext line).KindIn ks :=
  kindIn_bind (kindIn_decodeHeader hm hr ext line) fun _ =>
    kindIn_bind (kindIn_require hm _) fun _ => kindIn_good ks _

theorem kindIn_decodeData (hc : .lengthMismatch ∈ ks) (ext : Bool) (line : Line) :
    (decodeData ext line).KindIn ks :=
  kindIn_bind (kindIn_decodeHeader hm hr ext line) fun _ =>
    kindIn_bind (kindIn_require hc _) fun _ =>
      kindIn_bind (kindIn_orMalformed hm _) fun _ => kindIn_good ks _

end

/-- The error kinds that the field checks of an opcode can report (R260). -/
def fieldKinds : Opcode → List NackKind
  | .sendStd => [.malformedField, .outOfRange, .lengthMismatch]
  | .sendExt => [.malformedField, .outOfRange, .lengthMismatch]
  | .remoteStd => [.malformedField, .outOfRange]
  | .remoteExt => [.malformedField, .outOfRange]
  | .timestamp => [.malformedField, .outOfRange]
  | .preset => [.malformedField, .outOfRange]
  | _ => [.malformedField]

theorem badKind?_mem {α : Type} {ks : List NackKind} {a : Operands α} {k : NackKind}
    (h : a.KindIn ks) (hk : Machine.badKind? a = some k) : k ∈ ks := by
  cases a with
  | good v => cases hk
  | bad k' => exact h k (congrArg _ (Option.some.inj hk))

/-- A decoded line reports only kinds of its opcode. -/
theorem fieldError?_mem_fieldKinds {line : Line} {i : Instr} {k : NackKind}
    (h : decode line = some i) (hk : Machine.fieldError? i = some k) : k ∈ fieldKinds i.opcode := by
  have hi := decodeAs_of_decode h
  cases i <;> injection hi with hi <;> subst hi <;> refine badKind?_mem ?_ hk
  case openChannel | closeChannel | status | version | serial => exact kindIn_decodeBare (.head _) _
  case sendStd | sendExt =>
    exact kindIn_decodeData (.head _) (.tail _ (.head _)) (.tail _ (.tail _ (.head _))) _ _
  case remoteStd | remoteExt => exact kindIn_decodeRemote (.head _) (.tail _ (.head _)) _ _
  case timestamp => exact kindIn_decodeTimestamp (.head _) (.tail _ (.head _)) _
  case setCode | setMask => exact kindIn_decodeWord32 (.head _) _
  case customTiming => exact kindIn_decodeBtr (.head _) _
  case preset => exact kindIn_decodePreset (.head _) (.tail _ (.head _)) _

end Sys2Proof

namespace Sys2Proof.Machine

theorem TwoCalls.nack_kind {op1 op2 : Call} {done : State → State} {s t : State} {es : List Event}
    (h : TwoCalls op1 op2 done s t es) {kind : NackKind} (hk : .nack kind ∈ es) :
    kind = .controllerFailure := by
  cases h with
  | firstFailed h1 => simpa using hk
  | secondFailed h1 h2 => simpa using hk
  | bothOk h1 h2 => simp at hk

/-- Where the kind of a recorded NACK comes from: the phase, the fields, or a failed call. -/
theorem Ran.nack_kind {i : Instr} {s t : State} {es : List Event} (h : Ran i s t es)
    {kind : NackKind} (hk : .nack kind ∈ es) :
    (kind = .illegalState ∧ legalPhase i.opcode s.st.phase = false) ∨ fieldError? i = some kind ∨
      (kind = .controllerFailure ∧ (isSend i.opcode = true ∨ isLifecycle i.opcode = true)) := by
  cases h with
  | illegal hp =>
    refine .inl ⟨?_, hp⟩
    cases hl : isLifecycle i.opcode <;> simpa [hl] using hk
  | bad k hp hf =>
    obtain rfl : kind = k := by simpa using hk
    exact .inr (.inl hf)
  | plain hs hl hp hf => cases hk
  | sent f hi hp hr => simp at hk
  | sendFailed f hi hp hr =>
    subst hi
    exact .inr (.inr ⟨by simpa using hk, .inl (isSend_sendOf f)⟩)
  | opens hi hp hc =>
    subst hi
    exact .inr (.inr ⟨hc.nack_kind hk, .inr rfl⟩)
  | closes hi hp hc =>
    subst hi
    exact .inr (.inr ⟨hc.nack_kind hk, .inr rfl⟩)

/-- A refusal with a pulse, as one update of the ports (R146). -/
theorem refuseWithPulse_eq (s : State) (k : NackKind) :
    refuseWithPulse s k = .next { s with
      output := s.output ++ [0x07], trace := s.trace ++ [.indPulse, .nack k] } := by
  simp [refuseWithPulse, refuseLine, State.raiseNack, State.pulse, State.record, State.emit]

/-- A command that is answered with a pulse and ACK, as one update of the ports. -/
theorem pulse_ack_eq (s : State) :
    s.pulse.ack = { s with output := s.output ++ [0x0D], trace := s.trace ++ [.indPulse] } := rfl

/-- The commands that are legal in every phase (R143). -/
theorem not_mem_of_illegal {op : Opcode} {p : Phase} (h : legalPhase op p = false) :
    op ∉ [Opcode.timestamp, .status, .version, .serial] := by
  intro hop
  simp only [List.mem_cons, List.not_mem_nil, or_false] at hop
  obtain rfl | rfl | rfl | rfl := hop <;> cases h

end Sys2Proof.Machine

namespace Sys2Proof.Proofs

open Sys2Proof Sys2Proof.Machine Sys2Proof.Config

/-- Settles O29: the kind comes from the phase, from the fields (`fieldKinds`), or from a failed
call. -/
theorem kindsAreRaisedOnlyWhereListed : Obligations.KindsAreRaisedOnlyWhereListed := by
  unfold Obligations.KindsAreRaisedOnlyWhereListed
  intro line s t es kind h hes hk
  obtain ⟨hd, rfl⟩ | ⟨i, hd, he⟩ := dispatch_next h
  · obtain rfl : [.indPulse, .nack .illegalState] = es := by simpa using hes
    obtain rfl : kind = .illegalState := by simpa using hk
    exact .inl hd
  · obtain ⟨rfl, hp⟩ | hf | ⟨rfl, hcall⟩ := (ran_of_exec_events he hes).nack_kind hk
    · exact .inr ⟨i, hd, not_mem_of_illegal hp⟩
    · have hmem := fieldError?_mem_fieldKinds hd hf
      generalize hop : i.opcode = op at hmem
      have hrows : (kind = .malformedField) ∨
          (kind = .outOfRange ∧ (isSend op = true ∨ op = .preset ∨ op = .timestamp)) ∨
          (kind = .lengthMismatch ∧ (op = .sendStd ∨ op = .sendExt)) := by
        cases op <;> simpa [fieldKinds, isSend] using hmem
      obtain rfl | ⟨rfl, hrow⟩ | ⟨rfl, hrow⟩ := hrows
      · simp [hd]
      · exact ⟨i, hd, by rwa [hop]⟩
      · exact ⟨i, hd, by rwa [hop]⟩
    · exact ⟨i, hd, hcall⟩

/-- Settles O32: the two calls of a legal `O` at each pair of answers. -/
theorem openFollowsInstallAndStart : Obligations.OpenFollowsInstallAndStart := by
  unfold Obligations.OpenFollowsInstallAndStart
  intro s hp install port
  have hexec : exec (.openChannel (.good ())) s = _ := execOpenChannel_of_legal hp
  rw [hexec]
  refine ⟨fun h1 h2 => ?_, fun h1 => ?_, fun h1 h2 => ?_⟩
  · simp [h1, h2, pulse_ack_eq, State.enterOpen, State.callController, handOver, install, port]
  · simp [h1, refuseWithPulse_eq, State.callController, handOver, install, port]
  · simp [h1, h2, refuseWithPulse_eq, State.callController, handOver, install, port]

/-- Settles O33: the two calls of a legal `C` at each pair of answers. -/
theorem closeFollowsStopAndUninstall : Obligations.CloseFollowsStopAndUninstall := by
  unfold Obligations.CloseFollowsStopAndUninstall
  intro s hp
  have hexec : exec (.closeChannel (.good ())) s = _ := execCloseChannel_of_legal hp
  rw [hexec]
  refine ⟨fun h1 h2 => ?_, fun h1 => ?_, fun h1 h2 => ?_⟩
  · simp [h1, h2, pulse_ack_eq, State.enterClosed, State.callController, handOver]
  · simp [h1, refuseWithPulse_eq, State.callController, handOver]
  · simp [h1, h2, refuseWithPulse_eq, State.callController, handOver]

/-- Settles O34: the send is the one transmit call of its frame, at both answers. -/
theorem dataSendTransmitsOnce : Obligations.DataSendTransmitsOnce := by
  unfold Obligations.DataSendTransmitsOnce
  intro s ext a hp
  cases ext
  · exact (exec_sendOf (f := a.toFrame false) hp).trans (transmitFrame_eq _ _ s)
  · exact (exec_sendOf (f := a.toFrame true) hp).trans (transmitFrame_eq _ _ s)

/-- Settles O35, like O34; the payload handed over is the free value. -/
theorem remoteSendTransmitsOnce : Obligations.RemoteSendTransmitsOnce := by
  unfold Obligations.RemoteSendTransmitsOnce
  intro s ext a hp
  cases ext
  · exact (exec_sendOf (f := a.toFrame false) hp).trans (transmitFrame_eq _ _ s)
  · exact (exec_sendOf (f := a.toFrame true) hp).trans (transmitFrame_eq _ _ s)

/-- Settles O36: the one write and the reply of `Z`, legal in every phase. -/
theorem timestampCommandSetsFlag : Obligations.TimestampCommandSetsFlag := by
  unfold Obligations.TimestampCommandSetsFlag
  exact fun s on => exec_of_plain (i := .timestamp (.good on)) rfl rfl rfl rfl

/-- Settles O37: the one write and the reply of `M` and of `m`. -/
theorem filterCommandsWriteOneWord : Obligations.FilterCommandsWriteOneWord := by
  unfold Obligations.FilterCommandsWriteOneWord
  exact fun s w hp => ⟨exec_of_plain (i := .setCode (.good w)) rfl rfl (decide_eq_true hp) rfl,
    exec_of_plain (i := .setMask (.good w)) rfl rfl (decide_eq_true hp) rfl⟩

/-- Settles O38: the one update and the reply of `S` and of `s`, legal while not `Open`. -/
theorem timingCommandsConfigure : Obligations.TimingCommandsConfigure := by
  unfold Obligations.TimingCommandsConfigure
  intro s hp
  have hlegal : decide (s.st.phase = .closed ∨ s.st.phase = .configured) = true := by
    cases hphase : s.st.phase <;> simp_all
  exact ⟨fun k => exec_of_plain (i := .preset (.good k)) rfl rfl hlegal rfl,
    fun b0 b1 => exec_of_plain (i := .customTiming (.good ⟨b0, b1⟩)) rfl rfl hlegal rfl⟩

/-- Settles O39: the replies of the queries, legal in every phase. -/
theorem queriesReplyConstants : Obligations.QueriesReplyConstants := by
  unfold Obligations.QueriesReplyConstants
  exact fun s => ⟨exec_of_plain (i := .status (.good ())) rfl rfl rfl rfl,
    exec_of_plain (i := .version (.good ())) rfl rfl rfl rfl,
    exec_of_plain (i := .serial (.good ())) rfl rfl rfl rfl⟩

/-- Settles O40: in each of the three ways of the two calls the `install` call was made, and `start`
hands nothing over. -/
theorem installReceivesDecodedTiming : Obligations.InstallReceivesDecodedTiming := by
  unfold Obligations.InstallReceivesDecodedTiming
  intro s t b0 b1 hp htiming h
  obtain ⟨u, es, hc⟩ := twoCalls_exists (installCall s.st) .start State.enterOpen s
  obtain rfl : u = t := Host.Outcome.next.inj ((exec_of_ran (.opens rfl hp hc)).symm.trans h)
  have htrace := hc.trace_eq State.enterOpen_trace
  cases hc <;> exact ⟨by simp [installCall, htiming, handOver, portTiming], _, _,
    by rw [htrace, installCall, htiming]⟩

end Sys2Proof.Proofs
end

section
/-! PROOFS, family other: reset, the poller, and when a step stops. A poll by its pulled answer
(R245 to R247); every other step goes on, since every command and every framer case does. -/

namespace Sys2Proof.Machine

/-- The machine after the pull of a poll step. -/
def State.pulled (s : State) : State :=
  { s with env := s.env.afterStep.afterInbound
           trace := s.trace ++ [.receive s.env.afterStep.nextInbound] }

/-- How a poll that goes on leads from `s` to `t`, by its pulled answer (R245, R246). -/
inductive Polled (s : State) : State → Prop where
  | empty (ha : s.env.nextInbound = .empty) : Polled s (s.callReceive).2
  | dropped (f : Frame) (ha : s.env.nextInbound = .frame f) (hv : f.valid = true)
      (hp : s.st.phase ≠ .opened) : Polled s (s.callReceive).2
  | reported (f : Frame) (ha : s.env.nextInbound = .frame f) (hv : f.valid = true)
      (hp : s.st.phase = .opened) : Polled s (reportFrame f (s.callReceive).2)

theorem poll_of_polled {s t : State} (h : Polled s t) : poll s = .next t := by
  rw [poll_eq]
  cases h with
  | empty ha => rw [ha]
  | dropped f ha hv hp => simp [ha, hv, hp]
  | reported f ha hv hp => simp [ha, hv, hp]

theorem polled_of_poll {s t : State} (h : poll s = .next t) : Polled s t := by
  rw [poll_eq] at h
  cases ha : s.env.nextInbound with
  | empty =>
    rw [ha] at h
    cases h
    exact .empty ha
  | frame f =>
    rw [ha] at h
    cases hv : f.valid with
    | false => simp [hv] at h
    | true =>
      by_cases hp : s.st.phase = .opened
      · simp only [hv, hp, Bool.true_eq_false, if_true, if_false] at h
        cases h
        exact .reported f ha hv hp
      · simp only [hv, hp, Bool.true_eq_false, if_false] at h
        cases h
        exact .dropped f ha hv hp

theorem step_poll_empty {s : State} (hs : s.env.nextStep = .poll)
    (ha : s.env.afterStep.nextInbound = .empty) : step s = .next s.pulled :=
  (step_poll hs).trans (poll_of_polled (s := s.scheduled) (.empty ha))

theorem step_poll_invalid {s : State} {f : Frame} (hs : s.env.nextStep = .poll)
    (ha : s.env.afterStep.nextInbound = .frame f) (hv : f.valid = false) :
    step s = .fault (.invalidInboundFrame s.pulled) := by
  rw [step_poll hs, poll_eq]
  simp [ha, hv, State.callReceive, State.pulled]

theorem step_poll_dropped {s : State} {f : Frame} (hs : s.env.nextStep = .poll)
    (ha : s.env.afterStep.nextInbound = .frame f) (hv : f.valid = true)
    (hp : s.st.phase ≠ .opened) : step s = .next s.pulled :=
  (step_poll hs).trans (poll_of_polled (s := s.scheduled) (.dropped f ha hv hp))

theorem step_poll_reported {s : State} {f : Frame} (hs : s.env.nextStep = .poll)
    (ha : s.env.afterStep.nextInbound = .frame f) (hv : f.valid = true)
    (hp : s.st.phase = .opened) : step s = .next (reportFrame f s.pulled) :=
  (step_poll hs).trans (poll_of_polled (s := s.scheduled) (.reported f ha hv hp))

/-- A report writes what the encoder answers, and leaves the environment that the encoder leaves. -/
theorem reportFrame_eq_encodeReport (f : Frame) (s : State) :
    reportFrame f s = { s with
      env := (encodeReport f s).2.env, output := s.output ++ (encodeReport f s).1 } := by
  unfold reportFrame encodeReport
  split <;> rfl

/-! ## Steps that go on -/

theorem dispatch_total (line : Line) (s : State) : ∃ t, dispatch line s = .next t := by
  unfold dispatch
  cases decode line with
  | none => exact ⟨_, refuseWithPulse_eq s .illegalState⟩
  | some i =>
    obtain ⟨t, -, ht, -⟩ := exec_ran i s
    exact ⟨t, ht⟩

/-- A step goes on unless it polls an invalid frame (R247). -/
theorem step_of_safe {s : State} (h : safeStep s = true) : ∃ t, step s = .next t := by
  obtain ⟨b, hs, hq, he⟩ | ⟨hs, hm, he⟩ | ⟨hs, -⟩ := step_cases s
  · exact ⟨_, he.trans (consumeByte_quiet (s := { s with env := s.env.afterStep }) hq)⟩
  · rw [he]
    exact dispatch_total _ _
  · cases ha : s.env.afterStep.nextInbound with
    | empty => exact ⟨_, step_poll_empty hs ha⟩
    | frame f =>
      have hv : f.valid = true := by simpa [safeStep, hs, ha] using h
      by_cases hp : s.st.phase = .opened
      · exact ⟨_, step_poll_reported hs ha hv hp⟩
      · exact ⟨_, step_poll_dropped hs ha hv hp⟩

/-- A step that is not safe is a poll handed an invalid frame. -/
theorem step_of_not_safe {s : State} (h : safeStep s = false) :
    step s = .fault (.invalidInboundFrame s.pulled) := by
  cases hs : s.env.nextStep with
  | consumeByte b => simp [safeStep, hs] at h
  | poll =>
    cases ha : s.env.afterStep.nextInbound with
    | empty => simp [safeStep, hs, ha] at h
    | frame f => exact step_poll_invalid hs ha (by simpa [safeStep, hs, ha] using h)

end Sys2Proof.Machine

namespace Sys2Proof.Proofs

open Sys2Proof Sys2Proof.Machine Sys2Proof.Config

/-- Settles O14: the fields of the reset state as they are written. -/
theorem resetValues : Obligations.ResetValues := by
  unfold Obligations.ResetValues
  exact ⟨rfl, rfl, rfl, rfl, rfl, rfl, rfl, rfl, rfl⟩

/-- Settles O15: the empty buffer, and no timing while closed. -/
theorem resetMeetsInvariant : Obligations.ResetMeetsInvariant := by
  unfold Obligations.ResetMeetsInvariant
  exact (Block.inv_iff _).mpr ⟨⟨by decide, by decide⟩, nofun, iff_of_true rfl rfl⟩

/-- Settles O44: the pull and its four continuations. -/
theorem pollIsOnePull : Obligations.PollIsOnePull := by
  unfold Obligations.PollIsOnePull
  intro s hs a s1
  refine ⟨step_poll_empty hs, fun f hf => ⟨step_poll_invalid hs hf, step_poll_dropped hs hf, ?_⟩⟩
  intro hv hp
  refine ⟨(encodeReport f s.pulled).2.env, (step_poll_reported hs hf hv hp).trans ?_⟩
  exact congrArg _ (reportFrame_eq_encodeReport f s.pulled)

/-- Settles O45: the report after the pull, at each value of the timestamp flag. -/
theorem pollReportsFrameWhileOpen : Obligations.PollReportsFrameWhileOpen := by
  unfold Obligations.PollReportsFrameWhileOpen
  intro s hs
  refine ⟨fun ha => ?_, fun f hf hv hp => ⟨fun hts => ?_, fun hts => ?_⟩⟩
  · rw [step_poll_empty hs ha, State.pulled, ha]
  · rw [step_poll_reported hs hf hv hp, reportFrame_eq]
    simp [State.pulled, hts, hf]
  · rw [step_poll_reported hs hf hv hp, reportFrame_eq]
    simp [State.pulled, hts, hf, stampText]

/-- Settles O48, by the cases of `safeStep`. -/
theorem stepStopsOnlyOnInvalidFrame : Obligations.StepStopsOnlyOnInvalidFrame := by
  unfold Obligations.StepStopsOnlyOnInvalidFrame
  exact fun s => ⟨step_of_safe, step_of_not_safe⟩

/-- Settles O57: a step goes on or faults, so it is never refused. -/
theorem onlyStrictBuildRuns : Obligations.OnlyStrictBuildRuns := by
  unfold Obligations.OnlyStrictBuildRuns
  refine fun s => ⟨rfl, fun r hr => ?_⟩
  cases h : safeStep s with
  | true =>
    obtain ⟨t, ht⟩ := step_of_safe h
    cases ht.symm.trans hr
  | false => cases (step_of_not_safe h).symm.trans hr

end Sys2Proof.Proofs
end

section
/-! PROOFS, family other: the ports only grow, and transmitted frames are valid. `Grows`
composes and every port operation respects it, so that it holds of every command, poll and step. -/

namespace Sys2Proof.Machine

/-! ## Ports only grow (R11, R14, R71) -/

/-- From `s` to `t` nothing put out was taken back and the scripts were read from the front; the
schedule was left alone. -/
structure Grows (s t : State) : Prop where
  output : s.output <+: t.output
  trace : s.trace <+: t.trace
  handed : s.handed <+: t.handed
  agenda : t.env.agenda = s.env.agenda
  results : t.env.results <:+ s.env.results
  inbound : t.env.inbound <:+ s.env.inbound
  clock : t.env.clock <:+ s.env.clock

theorem Grows.trans {s t u : State} (h : Grows s t) (h' : Grows t u) : Grows s u :=
  ⟨h.output.trans h'.output, h.trace.trans h'.trace, h.handed.trans h'.handed,
    h'.agenda.trans h.agenda, h'.results.trans h.results, h'.inbound.trans h.inbound,
    h'.clock.trans h.clock⟩

/-- The block's own state plays no part in it. -/
theorem Grows.of_ports {s t : State} (ho : s.output <+: t.output) (ht : s.trace <+: t.trace)
    (hh : t.handed = s.handed) (he : t.env = s.env) : Grows s t := by
  refine ⟨ho, ht, hh ▸ List.prefix_rfl, ?_, ?_, ?_, ?_⟩ <;> simp [he]

theorem grows_raiseNack (s : State) (k : NackKind) : Grows s (s.raiseNack k) :=
  .of_ports (List.prefix_append _ _) (List.prefix_append _ _) rfl rfl

theorem grows_pulse (s : State) : Grows s s.pulse :=
  .of_ports List.prefix_rfl (List.prefix_append _ _) rfl rfl

theorem grows_emit (s : State) (bytes : Line) : Grows s (s.emit bytes) :=
  .of_ports (List.prefix_append _ _) List.prefix_rfl rfl rfl

theorem grows_afterCall (s : State) (op : Call) : Grows s (s.afterCall op) := by
  obtain ⟨ha, hr, hi, hc⟩ := Env.afterResult_scripts s.env
  exact ⟨List.prefix_rfl, List.prefix_append _ _, List.prefix_append _ _, ha,
    by simp [hr, List.tail_suffix], by simp [hi], by simp [hc]⟩

theorem TwoCalls.grows {op1 op2 : Call} {done : State → State} {s t : State} {es : List Event}
    (hdone : ∀ s, Grows s (done s)) (h : TwoCalls op1 op2 done s t es) : Grows s t := by
  have h1 := grows_afterCall s op1
  have h2 := h1.trans (grows_afterCall _ op2)
  cases h with
  | firstFailed => exact (h1.trans (grows_pulse _)).trans (grows_raiseNack _ _)
  | secondFailed => exact (h2.trans (grows_pulse _)).trans (grows_raiseNack _ _)
  | bothOk => exact ((h2.trans (hdone _)).trans (grows_pulse _)).trans (grows_emit _ _)

theorem Ran.grows {i : Instr} {s t : State} {es : List Event} (h : Ran i s t es) : Grows s t := by
  cases h with
  | illegal hp =>
    cases isLifecycle i.opcode
    · exact grows_raiseNack _ _
    · exact (grows_pulse _).trans (grows_raiseNack _ _)
  | bad k hp hf => exact grows_raiseNack _ _
  | plain hs hl hp hf => exact .of_ports (List.prefix_append _ _) List.prefix_rfl rfl rfl
  | sent f hi hp hr => exact (grows_afterCall _ _).trans (grows_emit _ _)
  | sendFailed f hi hp hr => exact (grows_afterCall _ _).trans (grows_raiseNack _ _)
  | opens hi hp hc =>
    exact hc.grows (done := State.enterOpen) fun _ =>
      .of_ports List.prefix_rfl List.prefix_rfl rfl rfl
  | closes hi hp hc =>
    exact hc.grows (done := State.enterClosed) fun _ =>
      .of_ports List.prefix_rfl List.prefix_rfl rfl rfl

theorem grows_callReceive (s : State) : Grows s (s.callReceive).2 := by
  obtain ⟨ha, hr, hi, hc⟩ := Env.afterInbound_scripts s.env
  exact ⟨List.prefix_rfl, List.prefix_append _ _, List.prefix_rfl, ha,
    by simp [State.callReceive, hr], by simp [State.callReceive, hi, List.tail_suffix],
    by simp [State.callReceive, hc]⟩

theorem grows_reportFrame (f : Frame) (s : State) : Grows s (reportFrame f s) := by
  obtain ⟨ha, hr, hi, hc⟩ := Env.afterClock_scripts s.env
  rw [reportFrame_eq]
  cases s.st.tsEn with
  | false => exact .of_ports (List.prefix_append _ _) List.prefix_rfl rfl rfl
  | true =>
    exact ⟨List.prefix_append _ _, List.prefix_rfl, List.prefix_rfl, ha, by simp [hr], by simp [hi],
      by simp [hc, List.tail_suffix]⟩

theorem grows_dispatching {s : State} : Grows s.scheduled s.dispatching :=
  .of_ports List.prefix_rfl List.prefix_rfl rfl rfl

/-- A step handles its input from the scheduled machine, and there the ports only grow. -/
theorem Stepped.grows {s t : State} (h : Stepped s t) : Grows s.scheduled t := by
  cases h with
  | quiet b hs hq ht =>
    obtain ⟨-, henv, hhanded, ⟨ho, htr⟩ | ⟨ho, htr⟩⟩ :=
      consumeByte_quiet_next (s := s.scheduled) hq ht
    · exact .of_ports (ho ▸ List.prefix_rfl) (htr ▸ List.prefix_rfl) hhanded henv
    · exact .of_ports (ho ▸ List.prefix_append _ _) (htr ▸ List.prefix_append _ _) hhanded henv
  | unknown hs hm hd ht =>
    subst ht
    exact (grows_dispatching.trans (grows_pulse _)).trans (grows_raiseNack _ _)
  | command i es hs hm hd hr =>
    exact grows_dispatching.trans hr.grows
  | polled hs ht =>
    cases polled_of_poll ht with
    | empty ha => exact grows_callReceive _
    | dropped f ha hv hp => exact grows_callReceive _
    | reported f ha hv hp => exact (grows_callReceive _).trans (grows_reportFrame f _)

end Sys2Proof.Machine

namespace Sys2Proof.Proofs

open Sys2Proof Sys2Proof.Machine Sys2Proof.Config

/-- Settles O53: the schedule loses its first entry, and the step's own ports only grow. -/
theorem portsOnlyGrow : Obligations.PortsOnlyGrow := by
  unfold Obligations.PortsOnlyGrow
  intro s t h
  obtain ⟨hagenda, hresults, hinbound, hclock⟩ := Env.afterStep_scripts s.env
  obtain ⟨ho, ht, hh, ha, hr, hi, hc⟩ := (stepped_of_step h).grows
  exact ⟨ho, ht, hh, ha.trans hagenda, hresults ▸ hr, hinbound ▸ hi, hclock ▸ hc⟩

/-- Settles O54: only a dispatched send calls `transmit`, with the frame of its operands, which the
decoder has bounded (O9). -/
theorem transmittedFramesAreValid : Obligations.TransmittedFramesAreValid := by
  unfold Obligations.TransmittedFramesAreValid
  intro s t es f ms r h hes hmem
  cases stepped_of_step h with
  | quiet b hs hq ht =>
    obtain ⟨-, -, -, ⟨-, htr⟩ | ⟨-, htr⟩⟩ := consumeByte_quiet_next (s := s.scheduled) hq ht
    · obtain rfl : es = [] := by simpa [htr] using hes.symm
      cases hmem
    · obtain rfl := List.append_cancel_left (htr.symm.trans hes)
      simp at hmem
  | unknown hs hm hd ht =>
    subst ht
    obtain rfl : [.indPulse, .nack .illegalState] = es := by
      simpa [State.dispatching] using hes
    simp at hmem
  | command i es' hs hm hd hr =>
    obtain rfl := List.append_cancel_left (hr.trace_eq.symm.trans hes)
    obtain ⟨rfl, hms, -⟩ := hr.of_transmit hmem
    have hw := wellFormed_of_decode hd (fieldError?_sendOf f)
    exact ⟨(sendOf_wellFormed f).symm.trans hw, hms⟩
  | polled hs ht =>
    obtain ⟨-, htr, -⟩ := poll_next ht
    obtain rfl := List.append_cancel_left (htr.symm.trans hes)
    simp at hmem

end Sys2Proof.Proofs
end

section
/-! PROOFS, family other: two runs that differ in a setting of the block (the filter words, or the
timestamp flag). A change of the block that leaves the channel and the framer alone commutes with
whatever reads only these; the writers and the readers of the setting remain. -/

namespace Sys2Proof.Machine

/-! ## Changes of a setting -/

/-- The machine with its block changed by `g`. -/
def State.mapSt (g : Block → Block) (s : State) : State := { s with st := g s.st }

/-- `g` changes a setting only: it keeps the framer and the channel, and does not depend on them. -/
structure SettingChange (g : Block → Block) : Prop where
  phase (b : Block) : (g b).phase = b.phase
  rdBuf (b : Block) : (g b).rdBuf = b.rdBuf
  rdMode (b : Block) : (g b).rdMode = b.rdMode
  withBuf (b : Block) (line : Line) : { g b with rdBuf := line } = g { b with rdBuf := line }
  withMode (b : Block) (m : ReaderMode) : { g b with rdMode := m } = g { b with rdMode := m }
  opened (b : Block) : { g b with phase := .opened } = g { b with phase := .opened }
  closed (b : Block) : { g b with phase := .closed, timing := .none } =
    g { b with phase := .closed, timing := .none }

/-- The filter words, replaced. -/
def Block.setFilter (code mask : Word) (b : Block) : Block :=
  { b with filtCode := code, filtMask := mask }

/-- The timestamp flag, replaced. -/
def Block.setFlag (flag : Bool) (b : Block) : Block := { b with tsEn := flag }

theorem settingChange_setFilter (code mask : Word) : SettingChange (Block.setFilter code mask) where
  phase _ := rfl
  rdBuf _ := rfl
  rdMode _ := rfl
  withBuf _ _ := rfl
  withMode _ _ := rfl
  opened _ := rfl
  closed _ := rfl

theorem settingChange_setFlag (flag : Bool) : SettingChange (Block.setFlag flag) where
  phase _ := rfl
  rdBuf _ := rfl
  rdMode _ := rfl
  withBuf _ _ := rfl
  withMode _ _ := rfl
  opened _ := rfl
  closed _ := rfl

/-! ## Steps without a command -/

theorem mapSt_raiseNack (g : Block → Block) (s : State) (k : NackKind) :
    (s.mapSt g).raiseNack k = (s.raiseNack k).mapSt g := rfl

section
variable {g : Block → Block} (hg : SettingChange g)
include hg

theorem mapSt_setRdBuf (s : State) (line : Line) :
    (s.mapSt g).setRdBuf line = (s.setRdBuf line).mapSt g :=
  congrArg (fun b => { s with st := b }) (hg.withBuf s.st line)

theorem mapSt_setRdMode (s : State) (m : ReaderMode) :
    (s.mapSt g).setRdMode m = (s.setRdMode m).mapSt g :=
  congrArg (fun b => { s with st := b }) (hg.withMode s.st m)

theorem consumeByte_quiet_mapSt {b : Byte} {s t : State}
    (hq : ¬(s.st.rdMode = .accumulate ∧ b = 0x0D)) (h : consumeByte b s = .next t) :
    consumeByte b (s.mapSt g) = .next (t.mapSt g) := by
  have hmode : (s.mapSt g).st.rdMode = s.st.rdMode := hg.rdMode s.st
  have hbuf : (s.mapSt g).st.rdBuf = s.st.rdBuf := hg.rdBuf s.st
  rw [consumeByte_quiet hq] at h
  rw [consumeByte_quiet (by rwa [hmode]), hmode, hbuf]
  cases h
  split
  · split
    · rw [mapSt_setRdMode hg]
    · rfl
  · split
    · rw [mapSt_raiseNack g, mapSt_setRdBuf hg, mapSt_setRdMode hg]
    · rw [mapSt_setRdBuf hg]

end

/-! ## Commands -/

theorem TwoCalls.mapSt {g : Block → Block} {op1 op2 : Call} {done : State → State}
    {s t : State} {es : List Event} (hdone : ∀ s, done (s.mapSt g) = (done s).mapSt g)
    (h : TwoCalls op1 op2 done s t es) :
    TwoCalls op1 op2 done (s.mapSt g) (t.mapSt g) es := by
  cases h with
  | firstFailed h1 => exact .firstFailed h1
  | secondFailed h1 h2 => exact .secondFailed h1 h2
  | bothOk h1 h2 =>
    have hend : ((done ((s.afterCall op1).afterCall op2)).pulse.ack).mapSt g =
        (done (((s.mapSt g).afterCall op1).afterCall op2)).pulse.ack := by
      rw [show ((s.mapSt g).afterCall op1).afterCall op2 = ((s.afterCall op1).afterCall op2).mapSt g
        from rfl, hdone]
      rfl
    rw [hend]
    exact .bothOk h1 h2

/-- How the run of a command goes on in the machine changed by `g`: alike, with the settings kept;
or it is a configuration command or a query; or it is a legal `O`. -/
inductive RanChanged (g : Block → Block) (i : Instr) (s t : State) (es : List Event) : Prop where
  | alike (hr : Ran i (s.mapSt g) (t.mapSt g) es) (hcode : t.st.filtCode = s.st.filtCode)
      (hmask : t.st.filtMask = s.st.filtMask) (hflag : t.st.tsEn = s.st.tsEn)
  | plain (ht : t = { s with st := blockAfter i s.st, output := s.output ++ successReply i.opcode })
      (hr : Ran i (s.mapSt g)
        { s with st := blockAfter i (g s.st), output := s.output ++ successReply i.opcode } [])
  | opens (hi : i = .openChannel (.good ())) (hp : (s.mapSt g).st.phase = .configured)
      (hc : TwoCalls (installCall s.st) .start State.enterOpen s t es)

theorem Ran.changed {g : Block → Block} (hg : SettingChange g) {i : Instr} {s t : State}
    {es : List Event} (h : Ran i s t es) : RanChanged g i s t es := by
  have hphase : (s.mapSt g).st.phase = s.st.phase := hg.phase s.st
  cases h with
  | illegal hp =>
    have hp' : legalPhase i.opcode (s.mapSt g).st.phase = false := by rwa [hphase]
    have hr := Ran.illegal hp'
    cases hl : isLifecycle i.opcode <;> rw [hl] at hr <;> exact .alike hr rfl rfl rfl
  | bad k hp hf => exact .alike (.bad k (by rwa [hphase]) hf) rfl rfl rfl
  | plain hs hl hp hf => exact .plain rfl (.plain (s := s.mapSt g) hs hl (by rwa [hphase]) hf)
  | sent f hi hp hr => exact .alike (.sent f hi (hphase.trans hp) hr) rfl rfl rfl
  | sendFailed f hi hp hr => exact .alike (.sendFailed f hi (hphase.trans hp) hr) rfl rfl rfl
  | opens hi hp hc => exact .opens hi (hphase.trans hp) hc
  | closes hi hp hc =>
    have hr : Ran i (s.mapSt g) (t.mapSt g) es := .closes hi (hphase.trans hp)
      (hc.mapSt fun u => congrArg (fun b => { u with st := b }) (hg.closed u.st))
    obtain hst | ⟨hst, -⟩ := hc.st_cases
      (g := fun b => { b with phase := .closed, timing := .none }) State.enterClosed_st <;>
      exact .alike hr (by rw [hst]) (by rw [hst]) (by rw [hst])

/-! ## The filter words (R33, R34) -/

/-- `t` and `t'` agree on all but the filter words, in the calls and values handed over too; each
filter word is as before (`b`'s in `t`, the given one in `t'`) or the same in both. -/
def FilterAlike (code mask : Word) (b : Block) (t t' : State) : Prop :=
  t'.output = t.output ∧ t'.env = t.env ∧ t'.st.phase = t.st.phase ∧
    t'.st.timing = t.st.timing ∧ t'.st.tsEn = t.st.tsEn ∧ t'.st.rdBuf = t.st.rdBuf ∧
    t'.st.rdMode = t.st.rdMode ∧
    t'.trace.map Event.blankFilter = t.trace.map Event.blankFilter ∧
    t'.handed.map Handed.blankFilter = t.handed.map Handed.blankFilter ∧
    ((t.st.filtCode = b.filtCode ∧ t'.st.filtCode = code) ∨ t'.st.filtCode = t.st.filtCode) ∧
    ((t.st.filtMask = b.filtMask ∧ t'.st.filtMask = mask) ∨ t'.st.filtMask = t.st.filtMask)

theorem filterAlike_mapSt {code mask code' mask' : Word} {b : Block} {t : State}
    (hcode : (t.st.filtCode = b.filtCode ∧ code' = code) ∨ code' = t.st.filtCode)
    (hmask : (t.st.filtMask = b.filtMask ∧ mask' = mask) ∨ mask' = t.st.filtMask) :
    FilterAlike code mask b t (t.mapSt (Block.setFilter code' mask')) :=
  ⟨rfl, rfl, rfl, rfl, rfl, rfl, rfl, rfl, rfl, hcode, hmask⟩

/-- A step that leaves the filter words leaves those of the other run too. -/
theorem filterAlike_of_kept {code mask : Word} {b : Block} {t : State}
    (hcode : t.st.filtCode = b.filtCode) (hmask : t.st.filtMask = b.filtMask) :
    FilterAlike code mask b t (t.mapSt (Block.setFilter code mask)) :=
  filterAlike_mapSt (.inl ⟨hcode, rfl⟩) (.inl ⟨hmask, rfl⟩)

/-- Only `M` and `m` write a filter word, each one of them. -/
theorem blockAfter_setFilter (i : Instr) (b : Block) (code mask : Word) : ∃ code' mask' : Word,
    blockAfter i (b.setFilter code mask) = (blockAfter i b).setFilter code' mask' ∧
      (((blockAfter i b).filtCode = b.filtCode ∧ code' = code) ∨
        code' = (blockAfter i b).filtCode) ∧
      (((blockAfter i b).filtMask = b.filtMask ∧ mask' = mask) ∨
        mask' = (blockAfter i b).filtMask) := by
  rcases i with a | a | a | a | a | a | a | a | a | a | a | a | a | a <;> rcases a with a | k
  case setCode.good => exact ⟨a, mask, rfl, .inr rfl, .inl ⟨rfl, rfl⟩⟩
  case setMask.good => exact ⟨code, a, rfl, .inl ⟨rfl, rfl⟩, .inr rfl⟩
  all_goals exact ⟨code, mask, rfl, .inl ⟨rfl, rfl⟩, .inl ⟨rfl, rfl⟩⟩

/-- A legal `O`: the two runs differ in the filter words that `install` receives. -/
theorem TwoCalls.filterAlike {s t : State} {es : List Event} (code mask : Word)
    (h : TwoCalls (installCall s.st) .start State.enterOpen s t es) :
    ∃ t' es', TwoCalls (installCall (s.st.setFilter code mask)) .start State.enterOpen
        (s.mapSt (Block.setFilter code mask)) t' es' ∧ FilterAlike code mask s.st t t' := by
  cases h with
  | firstFailed h1 =>
    refine ⟨_, _, .firstFailed h1, rfl, rfl, rfl, rfl, rfl, rfl, rfl, ?_, ?_, .inl ⟨rfl, rfl⟩,
      .inl ⟨rfl, rfl⟩⟩ <;> simp [State.mapSt, installCall, handOver, Block.setFilter]
  | secondFailed h1 h2 =>
    refine ⟨_, _, .secondFailed h1 h2, rfl, rfl, rfl, rfl, rfl, rfl, rfl, ?_, ?_, .inl ⟨rfl, rfl⟩,
      .inl ⟨rfl, rfl⟩⟩ <;> simp [State.mapSt, installCall, handOver, Block.setFilter]
  | bothOk h1 h2 =>
    refine ⟨_, _, .bothOk h1 h2, rfl, rfl, rfl, rfl, rfl, rfl, rfl, ?_, ?_, .inl ⟨rfl, rfl⟩,
      .inl ⟨rfl, rfl⟩⟩ <;> simp [State.mapSt, installCall, handOver, Block.setFilter]

/-- A command, run with other filter words. -/
theorem Ran.filterAlike {i : Instr} {s t : State} {es : List Event} (h : Ran i s t es)
    (code mask : Word) : ∃ t' es', Ran i (s.mapSt (Block.setFilter code mask)) t' es' ∧
      FilterAlike code mask s.st t t' := by
  cases h.changed (settingChange_setFilter code mask) with
  | alike hr hcode hmask hflag => exact ⟨_, _, hr, filterAlike_of_kept hcode hmask⟩
  | plain ht hr =>
    obtain ⟨code', mask', hb, hcode, hmask⟩ := blockAfter_setFilter i s.st code mask
    rw [hb] at hr
    subst ht
    exact ⟨_, _, hr, filterAlike_mapSt hcode hmask⟩
  | opens hi hp hc =>
    obtain ⟨t', es', hc', halike⟩ := hc.filterAlike code mask
    exact ⟨t', es', .opens hi hp hc', halike⟩

/-- The report encoder does not read the filter words. -/
theorem reportFrame_setFilter (f : Frame) (s : State) (code mask : Word) :
    reportFrame f (s.mapSt (Block.setFilter code mask)) =
      (reportFrame f s).mapSt (Block.setFilter code mask) := by
  rw [reportFrame_eq, reportFrame_eq]
  rfl

/-- A poll does not read the filter words. -/
theorem Polled.mapSt_setFilter {s t : State} (h : Polled s t) (code mask : Word) :
    Polled (s.mapSt (Block.setFilter code mask)) (t.mapSt (Block.setFilter code mask)) := by
  cases h with
  | empty ha => exact .empty ha
  | dropped f ha hv hp => exact .dropped f ha hv hp
  | reported f ha hv hp =>
    rw [← reportFrame_setFilter]
    exact .reported f ha hv hp

/-! ## The timestamp flag (R35) -/

theorem blockAfter_setFlag {i : Instr} (hz : ∀ on, i ≠ .timestamp (.good on)) (b : Block)
    (flag : Bool) : blockAfter i (b.setFlag flag) = (blockAfter i b).setFlag flag ∧
      (blockAfter i b).tsEn = b.tsEn := by
  rcases i with a | a | a | a | a | a | a | a | a | a | a | a | a | a <;> rcases a with a | k
  case timestamp.good => exact absurd rfl (hz a)
  all_goals exact ⟨rfl, rfl⟩

/-- A command other than `Z`, run with another timestamp flag. -/
theorem Ran.flagAlike {i : Instr} {s t : State} {es : List Event} (h : Ran i s t es)
    (hz : ∀ on, i ≠ .timestamp (.good on)) (flag : Bool) :
    Ran i (s.mapSt (Block.setFlag flag)) (t.mapSt (Block.setFlag flag)) es ∧
      t.st.tsEn = s.st.tsEn := by
  cases h.changed (settingChange_setFlag flag) with
  | alike hr hcode hmask hflag => exact ⟨hr, hflag⟩
  | plain ht hr =>
    obtain ⟨hb, hts⟩ := blockAfter_setFlag hz s.st flag
    rw [hb] at hr
    subst ht
    obtain rfl : es = [] := by simpa using h.trace_eq
    exact ⟨hr, hts⟩
  | opens hi hp hc =>
    refine ⟨.opens hi hp (hc.mapSt fun u => rfl), ?_⟩
    obtain hst | ⟨hst, -⟩ := hc.st_cases (g := fun b => { b with phase := .opened })
      State.enterOpen_st <;> rw [hst]

/-- `Z` writes the flag it carries, whatever the flag was. -/
theorem exec_timestamp_setFlag {on : Bool} {s t : State} (flag : Bool)
    (h : exec (.timestamp (.good on)) s = .next t) :
    exec (.timestamp (.good on)) (s.mapSt (Block.setFlag flag)) = .next t ∧ t.st.tsEn = on := by
  rw [exec_of_plain (i := .timestamp (.good on)) rfl rfl rfl rfl] at h
  cases h
  exact ⟨exec_of_plain (i := .timestamp (.good on)) rfl rfl rfl rfl, rfl⟩

/-- The step that takes the byte `b` runs `Z` with the digit `on`. -/
def RunsZ (s : State) (b : Byte) (on : Bool) : Prop :=
  b = 0x0D ∧ s.st.rdMode = .accumulate ∧ decode s.st.rdBuf = some (.timestamp (.good on))

/-- What the steps from `s` to `t`, and from `s` with the flag replaced to `t'`, may differ in. -/
def FlagRead (flag : Bool) (s t t' : State) : Prop :=
  (∀ b, s.env.nextStep = .consumeByte b →
    t' = { t with st := { t.st with tsEn := t'.st.tsEn } } ∧
    (∀ on, RunsZ s b on → t.st.tsEn = on ∧ t'.st.tsEn = on) ∧
    ((∀ on, ¬ RunsZ s b on) → t.st.tsEn = s.st.tsEn ∧ t'.st.tsEn = flag)) ∧
  (s.env.nextStep = .poll →
    t.st.tsEn = s.st.tsEn ∧
    t' = { t with
      st := { t.st with tsEn := flag }
      output := t'.output
      env := { t.env with clock := t'.env.clock, draws := t'.env.draws } } ∧
    ((s.st.phase ≠ .opened ∨ s.env.afterStep.nextInbound = .empty) →
      t' = { t with st := { t.st with tsEn := flag } }))

theorem flagRead_of_kept {s t : State} {b : Byte} (flag : Bool)
    (hs : s.env.nextStep = .consumeByte b) (hts : t.st.tsEn = s.st.tsEn)
    (hz : ∀ on, ¬ RunsZ s b on) : FlagRead flag s t (t.mapSt (Block.setFlag flag)) := by
  refine ⟨fun b' hs' => ?_, fun hp => by cases hs.symm.trans hp⟩
  cases hs.symm.trans hs'
  exact ⟨rfl, fun on hon => absurd hon (hz on), fun _ => ⟨hts, rfl⟩⟩

theorem flagRead_of_runsZ {s t : State} {on : Bool} (flag : Bool)
    (hs : s.env.nextStep = .consumeByte 0x0D) (hm : s.st.rdMode = .accumulate)
    (hd : decode s.st.rdBuf = some (.timestamp (.good on))) (hon : t.st.tsEn = on) :
    FlagRead flag s t t := by
  refine ⟨fun b hb => ?_, fun hp => by cases hs.symm.trans hp⟩
  cases hs.symm.trans hb
  refine ⟨rfl, fun on' ⟨_, _, hd'⟩ => ?_, fun hz => absurd ⟨rfl, hm, hd⟩ (hz on)⟩
  cases hd.symm.trans hd'
  exact ⟨hon, hon⟩

/-- Reading the clock or not changes the clock script and the draws alone. -/
theorem Env.afterClock_or_not (e : Env) (on flag : Bool) :
    (if flag then e.afterClock else e) = { (if on then e.afterClock else e) with
      clock := (if flag then e.afterClock else e).clock
      draws := (if flag then e.afterClock else e).draws } := by
  obtain ⟨agenda, results, inbound, clock, draws⟩ := e
  cases clock <;> cases on <;> cases flag <;> rfl

/-- A poll, with another timestamp flag. -/
theorem Polled.flagRead {s t : State} (h : Polled s.scheduled t) (flag : Bool)
    (hs : s.env.nextStep = .poll) :
    ∃ t', Polled (s.scheduled.mapSt (Block.setFlag flag)) t' ∧ FlagRead flag s t t' := by
  cases h with
  | empty ha =>
    exact ⟨_, .empty ha, fun b hb => (by cases hs.symm.trans hb),
      fun _ => ⟨rfl, rfl, fun _ => rfl⟩⟩
  | dropped f ha hv hp =>
    exact ⟨_, .dropped f ha hv hp, fun b hb => (by cases hs.symm.trans hb),
      fun _ => ⟨rfl, rfl, fun _ => rfl⟩⟩
  | reported f ha hv hp =>
    refine ⟨_, .reported f ha hv hp, fun b hb => (by cases hs.symm.trans hb),
      fun _ => ⟨?_, ?_, fun hn => ?_⟩⟩
    · rw [reportFrame_eq]
      rfl
    · rw [reportFrame_eq, reportFrame_eq]
      exact congrArg (fun e : Env => State.mk _ e _ _ _) (Env.afterClock_or_not _ s.st.tsEn flag)
    · obtain hn | hn := hn
      · exact absurd hp hn
      · cases ha.symm.trans hn

/-! ## Steps -/

/-- A byte that ends no line, in the changed machine. -/
theorem step_mapSt_of_quiet {g : Block → Block} (hg : SettingChange g) {s t : State} {b : Byte}
    (hs : s.env.nextStep = .consumeByte b) (hq : ¬(s.st.rdMode = .accumulate ∧ b = 0x0D))
    (ht : consumeByte b s.scheduled = .next t) : step (s.mapSt g) = .next (t.mapSt g) :=
  (step_consumeByte (s := s.mapSt g) hs).trans
    (consumeByte_quiet_mapSt hg (s := s.scheduled) hq ht)

/-- The dispatched line, in the changed machine. -/
theorem step_mapSt_of_term {g : Block → Block} (hg : SettingChange g) {s : State}
    (hs : s.env.nextStep = .consumeByte 0x0D) (hm : s.st.rdMode = .accumulate) :
    step (s.mapSt g) = dispatch s.st.rdBuf (s.dispatching.mapSt g) := by
  refine (step_of_term (s := s.mapSt g) hs ((hg.rdMode s.st).trans hm)).trans ?_
  exact congrArg₂ dispatch (hg.rdBuf s.st)
    (congrArg (fun b => { s.scheduled with st := b }) (hg.withBuf s.st []))

theorem step_mapSt_of_unknown {g : Block → Block} (hg : SettingChange g) {s : State}
    (hs : s.env.nextStep = .consumeByte 0x0D) (hm : s.st.rdMode = .accumulate)
    (hd : decode s.st.rdBuf = none) :
    step (s.mapSt g) = .next ((s.dispatching.pulse.raiseNack .illegalState).mapSt g) := by
  rw [step_mapSt_of_term hg hs hm, dispatch, hd]
  rfl

theorem step_mapSt_of_exec {g : Block → Block} (hg : SettingChange g) {s t : State} {i : Instr}
    (hs : s.env.nextStep = .consumeByte 0x0D) (hm : s.st.rdMode = .accumulate)
    (hd : decode s.st.rdBuf = some i) (he : exec i (s.dispatching.mapSt g) = .next t) :
    step (s.mapSt g) = .next t := by
  rw [step_mapSt_of_term hg hs hm, dispatch, hd]
  exact he

end Sys2Proof.Machine

namespace Sys2Proof.Proofs

open Sys2Proof Sys2Proof.Machine Sys2Proof.Config

/-- Settles O55: a step that runs no command does not read the filter words, and a command runs
alike but for the words it writes or passes to `install`. -/
theorem filterNeverAffectsHostOutput : Obligations.FilterNeverAffectsHostOutput := by
  unfold Obligations.FilterNeverAffectsHostOutput
  intro s t code mask h
  have hg := settingChange_setFilter code mask
  cases stepped_of_step h with
  | quiet b hs hq ht =>
    obtain ⟨hst, -⟩ := consumeByte_quiet_next (s := s.scheduled) hq ht
    exact ⟨_, step_mapSt_of_quiet hg hs hq ht,
      filterAlike_of_kept (by rw [hst]; rfl) (by rw [hst]; rfl)⟩
  | unknown hs hm hd ht =>
    subst ht
    exact ⟨_, step_mapSt_of_unknown hg hs hm hd, filterAlike_of_kept rfl rfl⟩
  | command i es hs hm hd hr =>
    obtain ⟨t', es', hr', halike⟩ := hr.filterAlike code mask
    exact ⟨t', step_mapSt_of_exec hg hs hm hd (exec_of_ran hr'), halike⟩
  | polled hs ht =>
    obtain ⟨hst, -⟩ := poll_next ht
    exact ⟨_, (step_poll (s := s.mapSt (Block.setFilter code mask)) hs).trans
      (poll_of_polled ((polled_of_poll ht).mapSt_setFilter code mask)),
      filterAlike_of_kept (by rw [hst]; rfl) (by rw [hst]; rfl)⟩

/-- Settles O56: `Z` overwrites the flag, every other byte leaves it unread, and a poll reads it in
a report alone. -/
theorem timestampFlagOnlyReadByPoll : Obligations.TimestampFlagOnlyReadByPoll := by
  unfold Obligations.TimestampFlagOnlyReadByPoll
  intro s t flag h
  have hg := settingChange_setFlag flag
  cases stepped_of_step h with
  | quiet b hs hq ht =>
    obtain ⟨hst, -⟩ := consumeByte_quiet_next (s := s.scheduled) hq ht
    exact ⟨_, step_mapSt_of_quiet hg hs hq ht, flagRead_of_kept flag hs (by rw [hst]; rfl)
      fun on ⟨hb, hm, _⟩ => hq ⟨hm, hb⟩⟩
  | unknown hs hm hd ht =>
    subst ht
    exact ⟨_, step_mapSt_of_unknown hg hs hm hd, flagRead_of_kept flag hs rfl
      fun on ⟨_, _, hz⟩ => by cases hd.symm.trans hz⟩
  | command i es hs hm hd hr =>
    by_cases hz : ∃ on, i = .timestamp (.good on)
    · obtain ⟨on, rfl⟩ := hz
      obtain ⟨he, hon⟩ := exec_timestamp_setFlag flag (exec_of_ran hr)
      exact ⟨t, step_mapSt_of_exec hg hs hm hd he, flagRead_of_runsZ flag hs hm hd hon⟩
    · obtain ⟨hr', hts⟩ := hr.flagAlike (fun on hi => hz ⟨on, hi⟩) flag
      refine ⟨_, step_mapSt_of_exec hg hs hm hd (exec_of_ran hr'), flagRead_of_kept flag hs hts ?_⟩
      exact fun on ⟨_, _, hz'⟩ => hz ⟨on, Option.some.inj (hd.symm.trans hz')⟩
  | polled hs ht =>
    obtain ⟨t', ht', hread⟩ := (polled_of_poll ht).flagRead flag hs
    exact ⟨t', (step_poll (s := s.mapSt (Block.setFlag flag)) hs).trans (poll_of_polled ht'), hread⟩

end Sys2Proof.Proofs
end
